-- ==== Sys2Proof/Word.lean ====
section
/-! DEFINITION. The word types of the block (00_scope.md R9): u8, u16 and u32. -/

namespace Sys2Proof

/-- `u8`. -/
abbrev Byte := BitVec 8

/-- `u16`. -/
abbrev Half := BitVec 16

/-- `u32`: an operation word, a register, a word of a buffer window. -/
abbrev Word := BitVec 32

end Sys2Proof
end

