-- ==== Sys2Proof/Machine/Bits.lean ====
section
/-! DEFINITION. Bit fields and byte order (00_scope.md R9; 20_memory.md R43: little-endian
everywhere). -/

namespace Sys2Proof.Machine

/-- `lo(v) = v mod 256`. -/
def lo (v : Half) : Byte := v.extractLsb' 0 8

/-- `hi(v) = v div 256`. -/
def hi (v : Half) : Byte := v.extractLsb' 8 8

/-- `low + 256 * high`. -/
def half (low high : Byte) : Half := high ++ low

/-- `zext_16` of a byte. -/
def zext (b : Byte) : Half := b.setWidth 16

/-- A number kept as 16 bits: `info mod 65536` (60_exceptions.md R145), a count in `RES0`. -/
def toHalf (n : Nat) : Half := BitVec.ofNat 16 n

/-- Byte `k` of a word: byte 0 is bits 7:0. -/
def byteOf (w : Word) (k : Nat) : Byte := w.extractLsb' (8 * k) 8

/-- A word from its bytes, byte 0 first. -/
def wordOf (b0 b1 b2 b3 : Byte) : Word := b3 ++ b2 ++ b1 ++ b0

/-- A truth value as one bit. -/
def bit (b : Bool) : BitVec 1 := BitVec.ofBool b

end Sys2Proof.Machine
end

