-- ==== Sys2Proof/Config.lean ====
section
/-! DEFINITION. What an implementation fixes (00_scope.md R8) and the free values of the model
(`Draw(T)` of R11): constants with no body, so that no proof can see their value. -/

namespace Sys2Proof

/-- `SLAVE_LEN_TIMING`: whose `sensor_id` sets a transaction's length (90_conflicts.md C3). -/
inductive LenTiming where
  | current
  | previous
  deriving DecidableEq, Repr, Inhabited

/-- A transaction length of a slave peer: 4 or 8 bytes (46_slave_peer.md R124). -/
inductive FrameLen where
  | four
  | eight
  deriving DecidableEq, Repr, Inhabited

/-- The number of bytes of a transaction length. -/
def FrameLen.bytes : FrameLen → Nat
  | .four => 4
  | .eight => 8

/-- `SPI_MODE`: clock polarity and phase (44_spi_transport.md R100). -/
structure SpiMode where
  polarity : Bool
  phase : Bool
  deriving DecidableEq, Repr, Inhabited

/-- `SPI_BIT_ORDER`. -/
inductive BitOrder where
  | msbFirst
  | lsbFirst
  deriving DecidableEq, Repr, Inhabited

/-- The implementation parameters of R8. They are constants of the machine: the state carries them and
no step changes them (log 9). No rule depends on the last five (93_implementation_defined.md I19;
log 21). -/
structure Params where
  /-- `N_SLAVES`, in [1,24]. -/
  nSlaves : Nat
  /-- `MUSCLE_BASE`. -/
  muscleBase : Nat
  /-- `V_REF` is the positive rational `vRefNum / vRefDen`. -/
  vRefNum : Nat
  vRefDen : Nat
  lenTiming : LenTiming
  /-- `SLAVE_INIT_LEN`. -/
  initLen : FrameLen
  /-- `SLAVE_TRAILING_WRITE`. -/
  trailingWrite : Bool
  /-- The durations, in one unit of time that no rule fixes. -/
  tSettle : Nat
  tIb : Nat
  tSlaveIsr : Nat
  spiMode : SpiMode
  spiBitOrder : BitOrder
  /-- `SPI_CLOCK` and `UART_BAUD`, as rates. -/
  spiClock : Nat
  uartBaud : Nat
  /-- `UART_FORMAT`, as the number of a format: no list of formats is given. -/
  uartFormat : Nat
  deriving DecidableEq, Repr

namespace Config

/-- `CMD_MAX` and `SENS_MAX` (R8): both batches hold 38 records. -/
def cmdMax : Nat := 38
def sensMax : Nat := 38

/-- `BUF_LEN` (R8). -/
def bufLen : Nat := 8

/-- `SLAVE_CH_BASE` (R8): slave index `s` is addressed at channel `s + 37`. -/
def slaveChBase : Nat := 37

/-- The `OPEN` parameters of R8: no value is given, so none is visible. -/
opaque vRefNumPred : Nat
opaque vRefDenPred : Nat
opaque lenTiming : LenTiming
opaque initLen : FrameLen
opaque trailingWrite : Bool
opaque tSettle : Nat
opaque tIb : Nat
opaque tSlaveIsr : Nat
opaque spiMode : SpiMode
opaque spiBitOrder : BitOrder
opaque spiClock : Nat
opaque uartBaud : Nat
opaque uartFormat : Nat

/-- `Draw(T)` (R11): the n-th value "chosen by no law" that the machine takes; narrower types take its
low bits. DESIGN CHOICE as to the form (log 3). -/
opaque freeWord : Nat → Word

/-- What slave `s` holds in `tx_reg` at launch (46_slave_peer.md R124: `Draw(u8)`). -/
opaque launchTx : Nat → Byte

/-- Whether a slave is attached at index `s` (93_implementation_defined.md I14). -/
opaque attached : Nat → Bool

/-- The parameters of the machine that `State.reset` starts: R8's values, and the `OPEN` ones
unknown. `V_REF` is positive whatever the two constants are. -/
def params : Params where
  nSlaves := 24
  muscleBase := 39
  vRefNum := vRefNumPred + 1
  vRefDen := vRefDenPred + 1
  lenTiming := lenTiming
  initLen := initLen
  trailingWrite := trailingWrite
  tSettle := tSettle
  tIb := tIb
  tSlaveIsr := tSlaveIsr
  spiMode := spiMode
  spiBitOrder := spiBitOrder
  spiClock := spiClock
  uartBaud := uartBaud
  uartFormat := uartFormat

end Config

/-- What R8 and 43_registry.md R95 ask of the parameters: 1 to 24 slaves, a positive reference, and no
default muscle_id of 255 or above. -/
def Params.wf (p : Params) : Bool :=
  decide (1 ≤ p.nSlaves) && decide (p.nSlaves ≤ 24) && decide (p.muscleBase + p.nSlaves ≤ 255) &&
    decide (0 < p.vRefNum) && decide (0 < p.vRefDen)

/-- The premise of 70_reset_and_hazards.md R165, under which a slave has handled one byte before the
next can start. -/
def Params.slavesKeepUp (p : Params) : Bool :=
  decide (p.tSlaveIsr ≤ p.tIb) && decide (p.tSlaveIsr ≤ p.tSettle)

end Sys2Proof
end

