-- ==== Sys2Proof/Syntax.lean ====
section
/-! DEFINITION. The operations of the block: one constructor per row of spec/opcode_table.json
(30_encoding.md R62). A constructor carries the operands its row uses and no others: R61 gives the
unused bits of `A` and `B` no effect. Numbers that the rules compare or count with (a channel, a slave
index, a length, a selector) are `Nat`; bytes and 16-bit values are bit vectors. -/

namespace Sys2Proof

inductive Instr where
  /-- 48_control.md R140, R141. -/
  | nop
  | srst
  /-- 41_codec.md R76 to R86. -/
  | u16fb (low high : Byte)
  | bfu16 (v : Half)
  | u10to16 (x : Half)
  | u16to10 (x : Half)
  | u10to12 (x : Half)
  | u12to10 (x : Half)
  | u12to16 (x : Half)
  | u16to12 (x : Half)
  | clamp12 (v : Half)
  | adc2v (x : Half)
  | dacwr (v : Half)
  /-- 42_mux.md R90, R91. -/
  | muxsel (channel : Nat)
  | adcsample (channel : Nat)
  /-- 43_registry.md R96, R97. -/
  | lkmus (id : Byte)
  | lkslv (id : Byte)
  /-- 44_spi_transport.md R104 (`BEGIN`) and R105 (`END`). -/
  | beginBracket (index : Nat)
  | endBracket
  /-- 44_spi_transport.md R106 to R108. -/
  | xfer8 (out : Byte)
  | xfer16 (out : Half)
  | xfern (n : Nat)
  /-- 44_spi_transport.md R110 to R118. -/
  | swr8 (slave out : Byte)
  | srd8 (slave : Byte)
  | srw8 (slave out : Byte)
  | swr16 (slave : Byte) (out : Half)
  | srd16 (slave : Byte)
  | srw16 (slave : Byte) (out : Half)
  | swrn (slave : Byte) (n : Nat)
  | srdn (slave : Byte) (n : Nat)
  | srwn (slave : Byte) (n : Nat)
  /-- 44_spi_transport.md R119. -/
  | txn (slave : Byte) (v : Half)
  /-- 45_fanout.md R122, R123. -/
  | swap
  | mirror
  /-- 47_framing.md R134 to R139. -/
  | sync
  | rdbatch
  | wrbatch
  | cksumtx
  | clrbatch (selector : Nat)
  | putrec (id : Byte) (v : Half)
  deriving DecidableEq, Repr

end Sys2Proof
end

