-- ==== Sys2Proof/Machine/State.lean ====
section
/-! DEFINITION. The state of the machine as plain data: the block's registers, pins, buffers and hidden
state (10_state.md), the slave peers (46_slave_peer.md), and the model's own fields (the free values
taken so far, the least time passed, the bus history, what the other agents do next). -/

namespace Sys2Proof.Machine

/-- The twelve error kinds of 60_exceptions.md R144, in the order of their codes 1 to 12. -/
inductive ErrorKind where
  | desync
  | timeout
  | unknownId
  | checksum
  | range
  | nest
  | unbal
  | badArg
  | busy
  | len
  | illegal
  | addr
  deriving DecidableEq, Repr

/-- `CTRL.RXCHK` (10_state.md R16), the receive trailer policy; the value 3 does not exist (WARL). -/
inductive RxCheck where
  | none
  | discard
  | report
  deriving DecidableEq, Repr

/-- The fields of `CTRL` (10_state.md R16); reserved bits hold nothing. -/
structure Ctrl where
  irqEn : Bool
  start2 : Bool
  zeroEnd : Bool
  ckSeed : Bool
  rxChk : RxCheck
  unkErr : Bool
  rxTmoEn : Bool
  padCount : Byte
  mirrorSlot : Byte
  deriving DecidableEq, Repr

/-- The shared chip-select pin (10_state.md R17, R33). -/
inductive ChipSelect where
  | released
  | high
  | low
  deriving DecidableEq, Repr

/-- The bracket state (10_state.md R35): at most one bracket exists. -/
inductive Bracket where
  | closed
  | opened (s : Nat)
  deriving DecidableEq, Repr

/-- Where the reply byte of an exchange goes besides the operation's local `r`: nowhere, or
`buf.RXBUF[s][k]` (44_spi_transport.md R108, R109). -/
inductive Dest where
  | discard
  | rxBuf (s k : Nat)
  deriving DecidableEq, Repr

/-- One step of an operation's pseudocode: what the sequencer does at one instant. The rules each one
follows are named where `Machine/Micro.lean` gives its effect; which lines of the pseudocode are one
step is log 4 (DEDUCED). -/
inductive Micro where
  | setMux (channel : BitVec 6)
  | settle
  | assertCs (s : Nat)
  | raiseCs
  | releaseCs
  | exchange (out : Byte) (dest : Dest)
  | sampleAdc
  | poke (off : Nat) (b : Byte)
  | keepReplies (s n : Nat)
  | updateRecord (s : Nat) (command sensor : Byte) (v : Half)
  | append (id : Byte) (v : Half)
  | appendReply (id : Byte)
  | countUnknown
  | startSearch
  | searchByte
  | takeCount
  | takeInto (off : Nat)
  | takeTrailer (count : Byte)
  | transmit (b : Byte)
  | result (r0 r1 : Half)
  | resultReply8
  | resultReply16
  | resultTxn (all : Bool)
  | resultSwap
  | resultSearch
  | keepBatch (count : Byte)
  | setDac (y : BitVec 12)
  | flag (k : ErrorKind) (info : Half)
  | raise (k : ErrorKind) (info : Half)
  deriving DecidableEq, Repr

/-- The local values of a running operation's pseudocode: the reply bytes `r` of the bracket, the
counters `real` and `unk` of `SWAP`, `n` of `Sync` and `t` of `RDBATCH`, and whether the operation
itself opened the bracket that is open (60_exceptions.md R149). -/
structure Locals where
  replies : List Byte := []
  real : Nat := 0
  unk : Nat := 0
  taken : Nat := 0
  trailer : Byte := 0
  ownBracket : Bool := false
  deriving DecidableEq, Repr

/-- A running operation: the latched operation and the position in its pseudocode, as the steps that
are left and the local values (10_state.md R34). -/
structure Running where
  op : Instr
  todo : List Micro
  loc : Locals
  deriving DecidableEq, Repr

/-- The sequencer (10_state.md R34): `IDLE` or `RUNNING(op, step)`. -/
inductive Seq where
  | idle
  | running (r : Running)
  deriving DecidableEq, Repr

/-- A slave peer (46_slave_peer.md R124); whether a slave is attached at its index at all
(93_implementation_defined.md I14); and, MODEL'S OWN, when its byte interrupt has handled the last byte
(70_reset_and_hazards.md R165; log 7). -/
structure Peer where
  attached : Bool
  spiIndex : Nat
  maxSpiIndex : FrameLen
  pendingLen : FrameLen
  commandId : Byte
  sensorId : Byte
  staged : List Byte
  rxLo : Byte
  txReg : Byte
  desired : Half
  readyAt : Nat
  deriving DecidableEq, Repr

/-- The values of `Draw(T)` (00_scope.md R11). MODEL'S OWN: the values the environment has already
settled, next first, and how many draws were taken. With none settled a draw is the opaque
`Config.freeWord` of the count (log 3). -/
structure Draws where
  settled : List Word
  count : Nat
  deriving DecidableEq, Repr

/-- What happens on the SPI bus at the byte level, for the history `bus` (MODEL'S OWN, log 17):
chip-select asserted with the mux on a channel, a byte out and the byte in, chip-select released. -/
inductive BusEvent where
  | asserted (channel : BitVec 6)
  | byte (sent got : Byte)
  | released
  deriving DecidableEq, Repr

/-- What an agent other than the sequencer does next (00_scope.md R7; log 1). -/
inductive Move where
  /-- The controller's operation line of 30_encoding.md R73: a `CMD` write of the word, then `WAIT`. -/
  | issue (w : Word)
  /-- A controller write of a `width`-byte value at a byte offset. -/
  | write (off : BitVec 12) (width : Nat) (v : Word)
  /-- A controller read of `width` bytes at a byte offset. -/
  | read (off : BitVec 12) (width : Nat)
  /-- The controller's `WAIT`: the sequencer runs until the operation ends or waits for the host. -/
  | wait
  /-- The sequencer takes one step while the controller does nothing. -/
  | tick
  /-- The host appends a byte to `RX` (20_memory.md R58). -/
  | hostSend (b : Byte)
  /-- The host takes the oldest byte of `TX` (20_memory.md R59). -/
  | hostTake
  /-- A wait for a received byte times out (20_memory.md R57). -/
  | timeout
  /-- Time passes (00_scope.md R12). -/
  | elapse (t : Nat)
  /-- The `RESET` input (70_reset_and_hazards.md R159). -/
  | powerOn
  deriving DecidableEq, Repr

/-- The state. Each field cites the rule that names it; fields marked MODEL'S OWN are not the spec's. -/
structure State where
  /-- 00_scope.md R8: constants of the machine (log 9). -/
  params : Params
  /-- `CTRL`, R16. -/
  ctrl : Ctrl
  /-- `STATUS.DONE`, R17. -/
  done : Bool
  /-- `ERR.KIND`, bits 12:1 of `ERR`, R18: bit `k - 1` here is error code `k`. -/
  errKind : BitVec 12
  /-- `ERR.LAST_CAUSE`, R18. -/
  lastCause : Byte
  /-- `ERRINFO.INFO`, R19. -/
  errInfo : Half
  /-- `RESULT` bits 15:0 and 31:16, R21. -/
  res0 : Half
  res1 : Half
  /-- `TXHDR.COMMAND_ID` and `TXHDR.SENSOR_ID`, R22. -/
  commandId : Byte
  sensorId : Byte
  /-- `UNKCNT`, R23. -/
  unkCnt : Half
  /-- `SYNCLIM`, R24. -/
  syncLim : Half
  /-- `DAC_OUT`, R25. -/
  dac : BitVec 12
  /-- The pin groups `MUX_L` and `MUX_U`, R33. -/
  muxL : BitVec 3
  muxU : BitVec 3
  /-- The pin `CS`, R33. -/
  cs : ChipSelect
  /-- R35. -/
  bracket : Bracket
  /-- R34. -/
  seq : Seq
  /-- The start-marker window `W`, R36, oldest byte first. -/
  window : List Byte
  /-- R37. -/
  lastByteEnd : Option Nat
  /-- The host streams, R38, oldest byte first. -/
  rx : List Byte
  tx : List Byte
  /-- The six buffer windows of the register space (R27 to R32) by byte offset; an unlisted byte reads
  as its reset value (`Machine/Memory.lean`). -/
  mem : List Host.Cell
  /-- The slave peers, R39, by slave index. -/
  peers : List Peer
  /-- MODEL'S OWN: the data the register port returned for the last read (log 16). -/
  readData : Word
  /-- MODEL'S OWN: the least time that has passed (log 6). -/
  now : Nat
  /-- MODEL'S OWN: when the line selected by the last `SetMux` is settled (R87, R98; log 6). -/
  settledAt : Nat
  /-- MODEL'S OWN: the free values (log 3). -/
  draws : Draws
  /-- MODEL'S OWN: the history of the SPI bus, oldest first (log 17). -/
  bus : List BusEvent
  /-- MODEL'S OWN: what the other agents do next (log 1). -/
  moves : List Move
  deriving DecidableEq, Repr

/-- The block has no fault state (93_implementation_defined.md: "fault: not used"; 60_exceptions.md
R152), so nothing raises one and the type has no constructor (log 25). -/
inductive Fault where
  deriving DecidableEq, Repr

/-- Why an instruction has no meaning here. -/
inductive Refusal where
  /-- Raised by an arm of `exec` for an instruction without a meaning; safe. No arm raises it: every
  instruction is modelled. -/
  | notModelled (mnemonic : String)
  deriving DecidableEq, Repr

/-- `CTRL` after reset (R16): word 0x00000E02. -/
def Ctrl.reset : Ctrl where
  irqEn := false
  start2 := true
  zeroEnd := false
  ckSeed := false
  rxChk := .none
  unkErr := false
  rxTmoEn := false
  padCount := 14
  mirrorSlot := 0

/-- Slave peer `s` in its launch state (46_slave_peer.md R124, premise `PEER_AT_REST` of
70_reset_and_hazards.md R162). -/
def Peer.atLaunch (len : FrameLen) (s : Nat) : Peer where
  attached := Config.attached s
  spiIndex := 0
  maxSpiIndex := len
  pendingLen := len
  commandId := 0
  sensorId := 0
  staged := []
  rxLo := 0
  txReg := Config.launchTx s
  desired := 0
  readyAt := 0

/-- The machine right after power-on reset (70_reset_and_hazards.md R160), every slave peer at rest
(R162). -/
def State.reset : State where
  params := Config.params
  ctrl := .reset
  done := false
  errKind := 0
  lastCause := 0
  errInfo := 0
  res0 := 0
  res1 := 0
  commandId := 1
  sensorId := 1
  unkCnt := 0
  syncLim := 0
  dac := 0
  muxL := 0
  muxU := 0
  cs := .released
  bracket := .closed
  seq := .idle
  window := [0, 0]
  lastByteEnd := none
  rx := []
  tx := []
  mem := []
  peers := (List.range Config.params.nSlaves).map (Peer.atLaunch Config.params.initLen)
  readData := 0
  now := 0
  settledAt := 0
  draws := { settled := [], count := 0 }
  bus := []
  moves := []

end Sys2Proof.Machine
end

