-- ==== Sys2Proof/Machine/Flags.lean ====
section
/-! DEFINITION. The flags and status words: error codes and their recording (60_exceptions.md R144,
R145), the words of `CTRL`, `STATUS`, `ERR` and `CFG` (10_state.md R16 to R18, R26), and `IRQ`
(R151). -/

namespace Sys2Proof.Machine

/-- The code of an error kind (R144). -/
def ErrorKind.code : ErrorKind → Nat
  | .desync => 1
  | .timeout => 2
  | .unknownId => 3
  | .checksum => 4
  | .range => 5
  | .nest => 6
  | .unbal => 7
  | .badArg => 8
  | .busy => 9
  | .len => 10
  | .illegal => 11
  | .addr => 12

/-- `ERR.KIND` with only the bit of one kind set: error code `k` is bit `k` of `ERR`, bit `k - 1` of the
field (R18). -/
def ErrorKind.mask (k : ErrorKind) : BitVec 12 := 1#12 <<< (k.code - 1)

/-- `Record(k, info)` (R145). -/
def State.record (k : ErrorKind) (info : Half) (s : State) : State :=
  { s with
    errKind := s.errKind ||| k.mask
    lastCause := BitVec.ofNat 8 k.code
    errInfo := info }

/-- `STATUS.BUSY` (R34). -/
def State.busy (s : State) : Bool :=
  match s.seq with
  | .idle => false
  | .running _ => true

/-- `STATUS.OPEN` (R35). -/
def State.isOpen (s : State) : Bool :=
  match s.bracket with
  | .closed => false
  | .opened _ => true

/-- `STATUS.OPEN_IDX`: the slave index of the open bracket, 0xFF when none is (R17). -/
def State.openIdx (s : State) : Byte :=
  match s.bracket with
  | .closed => 0xFF
  | .opened i => BitVec.ofNat 8 i

/-- `STATUS.ERRANY`: the OR of the `KIND` bits at every instant (R145). -/
def State.errAny (s : State) : Bool := decide (s.errKind ≠ 0)

/-- `STATUS.RXAVAIL` (R17). -/
def State.rxAvail (s : State) : Bool := !s.rx.isEmpty

/-- `STATUS.MUX_CH`: `{MUX_U, MUX_L}` (R17). -/
def State.muxCh (s : State) : BitVec 6 := s.muxU ++ s.muxL

/-- `STATUS.CS_STATE` (R17). -/
def ChipSelect.code : ChipSelect → BitVec 2
  | .released => 0
  | .high => 1
  | .low => 2

/-- The word of `STATUS` (R17). -/
def State.statusWord (s : State) : Word :=
  0#8 ++ s.openIdx ++ s.cs.code ++ s.muxCh ++ 0#3 ++ bit s.rxAvail ++ bit s.errAny ++ bit s.isOpen ++
    bit s.done ++ bit s.busy

/-- The word of `ERR` (R18). -/
def State.errWord (s : State) : Word := s.lastCause ++ 0#11 ++ s.errKind ++ 0#1

/-- The encoding of `RXCHK` (R16). -/
def RxCheck.code : RxCheck → BitVec 2
  | .none => 0
  | .discard => 1
  | .report => 2

/-- WARL: a write of 3 stores 0 (R16). -/
def RxCheck.ofCode (v : BitVec 2) : RxCheck :=
  if v = 1 then .discard else if v = 2 then .report else .none

/-- The word of `CTRL` (R16). -/
def Ctrl.word (c : Ctrl) : Word :=
  0#8 ++ c.mirrorSlot ++ c.padCount ++ bit c.rxTmoEn ++ bit c.unkErr ++ c.rxChk.code ++ bit c.ckSeed ++
    bit c.zeroEnd ++ bit c.start2 ++ bit c.irqEn

/-- What a write of a word stores in `CTRL`: reserved bits are ignored (R16). -/
def Ctrl.ofWord (w : Word) : Ctrl where
  irqEn := w.getLsbD 0
  start2 := w.getLsbD 1
  zeroEnd := w.getLsbD 2
  ckSeed := w.getLsbD 3
  rxChk := RxCheck.ofCode (w.extractLsb' 4 2)
  unkErr := w.getLsbD 6
  rxTmoEn := w.getLsbD 7
  padCount := w.extractLsb' 8 8
  mirrorSlot := w.extractLsb' 16 8

/-- The word of `CFG` (R26). -/
def State.cfgWord (s : State) : Word :=
  wordOf (BitVec.ofNat 8 s.params.nSlaves) (BitVec.ofNat 8 Config.cmdMax) (BitVec.ofNat 8 Config.sensMax)
    (BitVec.ofNat 8 Config.bufLen)

/-- The interrupt output, a level: `IRQ = CTRL.IRQ_EN AND STATUS.DONE` at every instant (R151). -/
def State.irq (s : State) : Bool := s.ctrl.irqEn && s.done

end Sys2Proof.Machine
end

