-- ==== Sys2Proof/Machine/Memory.lean ====
section
/-! DEFINITION. The six buffer windows of the register space (20_memory.md R42; 10_state.md R27 to R32)
as one sparse memory, keyed by byte offset, in one canonical form: offsets strictly rising, no byte
outside the windows, no byte equal to its reset value. -/

namespace Sys2Proof.Machine

/-- The window bases (R42). -/
def txBufBase : Nat := 0x100
def rxBufBase : Nat := 0x200
def cmdBatchBase : Nat := 0x300
def sensBatchBase : Nat := 0x400
def registryBase : Nat := 0x500
def slaveRecBase : Nat := 0x600

/-- A batch holds a count byte and 38 records of 3 bytes (R29, R30). -/
def batchBytes : Nat := 115

/-- `base <= off < base + size`. -/
def inRange (base size off : Nat) : Bool := decide (base ≤ off) && decide (off < base + size)

/-- The bytes of the windows: rows of slave indices below `N_SLAVES` only, and no reserved byte of a
registry entry (R28, R31, R32, R42). -/
def byteExists (p : Params) (off : Nat) : Bool :=
  inRange txBufBase 8 off || inRange rxBufBase (8 * p.nSlaves) off ||
    inRange cmdBatchBase batchBytes off || inRange sensBatchBase batchBytes off ||
    (inRange registryBase (4 * p.nSlaves) off && decide ((off - registryBase) % 4 ≠ 3)) ||
    inRange slaveRecBase (8 * p.nSlaves) off

/-- A registry entry's byte after reset (R31): `slave_id = s + 1`, `muscle_id = MUSCLE_BASE + s`,
`joint_id = s div 2`. -/
def registryResetByte (p : Params) (s k : Nat) : Byte :=
  match k with
  | 0 => BitVec.ofNat 8 (s + 1)
  | 1 => BitVec.ofNat 8 (p.muscleBase + s)
  | 2 => BitVec.ofNat 8 (s / 2)
  | _ => 0

/-- What a byte of a window reads as until it is written: its reset value (R27 to R32). -/
def resetByte (p : Params) (off : Nat) : Byte :=
  if inRange registryBase (4 * p.nSlaves) off then
    registryResetByte p ((off - registryBase) / 4) ((off - registryBase) % 4)
  else 0

/-- The byte listed at an offset, or what an unlisted one reads as. -/
def Memory.lookup (dflt : Byte) (off : Nat) : List Host.Cell → Byte
  | [] => dflt
  | (k, b) :: rest => if k = off then b else Memory.lookup dflt off rest

/-- The listing without an offset. -/
def Memory.erase (off : Nat) : List Host.Cell → List Host.Cell
  | [] => []
  | (k, b) :: rest => if k = off then Memory.erase off rest else (k, b) :: Memory.erase off rest

/-- The listing with a byte at an offset, in rising order. -/
def Memory.insert (off : Nat) (v : Byte) : List Host.Cell → List Host.Cell
  | [] => [(off, v)]
  | (k, b) :: rest =>
    if off < k then (off, v) :: (k, b) :: rest
    else if off = k then (off, v) :: rest
    else (k, b) :: Memory.insert off v rest

/-- A byte stored at an offset: the reset value is not listed; a byte outside the windows is dropped
(R42). -/
def Memory.store (p : Params) (off : Nat) (v : Byte) (mem : List Host.Cell) : List Host.Cell :=
  if byteExists p off then
    if v = resetByte p off then Memory.erase off mem else Memory.insert off v mem
  else mem

/-- The canonical form, for offsets from `low` on. -/
def Memory.wfFrom (p : Params) (low : Nat) : List Host.Cell → Bool
  | [] => true
  | (k, b) :: rest =>
    decide (low ≤ k) && byteExists p k && decide (b ≠ resetByte p k) && Memory.wfFrom p (k + 1) rest

/-- The canonical form. -/
def Memory.wf (p : Params) (mem : List Host.Cell) : Bool := Memory.wfFrom p 0 mem

/-- The byte of the register space at a window offset; a byte outside the windows reads 0 (R42). -/
def State.readByte (s : State) (off : Nat) : Byte :=
  if byteExists s.params off then Memory.lookup (resetByte s.params off) off s.mem else 0

/-- Store a byte of a window (R42: a byte outside the windows is dropped). -/
def State.writeByte (off : Nat) (v : Byte) (s : State) : State :=
  { s with mem := Memory.store s.params off v s.mem }

/-- A 16-bit value of a buffer, low byte at the lower index (R43). -/
def State.readHalf (s : State) (off : Nat) : Half := half (s.readByte off) (s.readByte (off + 1))

/-- Store a 16-bit value, low byte at the lower index (R43). -/
def State.writeHalf (off : Nat) (v : Half) (s : State) : State :=
  (s.writeByte off (lo v)).writeByte (off + 1) (hi v)

/-- The 32-bit word at an offset (R43). -/
def State.readWord (s : State) (off : Nat) : Word :=
  wordOf (s.readByte off) (s.readByte (off + 1)) (s.readByte (off + 2)) (s.readByte (off + 3))

/-- Store the four bytes of a word; those outside the windows are dropped (R42, R46). -/
def State.writeWord (off : Nat) (w : Word) (s : State) : State :=
  (((s.writeByte off (byteOf w 0)).writeByte (off + 1) (byteOf w 1)).writeByte (off + 2)
    (byteOf w 2)).writeByte (off + 3) (byteOf w 3)

end Sys2Proof.Machine
end

