-- ==== Sys2Proof/Machine/Operands.lean ====
section
/-! DEFINITION. The operand forms: registry lookups and the slave operand (43_registry.md R93;
44_spi_transport.md R103), the array length (R108, R109), batch records and the checksum (10_state.md R29,
R30; 30_encoding.md R70), the bytes of a transaction (R71), and the rescaling and rounding of the codec
(41_codec.md R75, R85). -/

namespace Sys2Proof.Machine

/-- `REGISTRY[s].slave_id` and `REGISTRY[s].muscle_id` (R31). -/
def State.slaveIdOf (s : State) (i : Nat) : Byte := s.readByte (registryBase + 4 * i)
def State.muscleIdOf (s : State) (i : Nat) : Byte := s.readByte (registryBase + 4 * i + 1)

/-- The slave indices in registry order (R92). -/
def State.indices (s : State) : List Nat := List.range s.params.nSlaves

/-- `LookupMuscle` and `LookupSlave` (R93): the first match in registry order. -/
def State.lookupMuscle (s : State) (id : Byte) : Option Nat :=
  s.indices.find? fun i => decide (s.muscleIdOf i = id)
def State.lookupSlave (s : State) (id : Byte) : Option Nat :=
  s.indices.find? fun i => decide (s.slaveIdOf i = id)

/-- The result of a lookup: the index, or `NOT_FOUND` (255). -/
def lookupResult : Option Nat → Half
  | none => 255
  | some i => toHalf i

/-- `Targets(A)` (R103): all indices for `ALL`, else the one with that slave_id; none if unknown. -/
def State.targets (s : State) (a : Byte) : Option (List Nat) :=
  if a = 255 then some s.indices
  else match s.lookupSlave a with
    | none => none
    | some i => some [i]

/-- The array tier's length is 1 to 8 (R108, R109). -/
def goodCount (n : Nat) : Bool := decide (1 ≤ n) && decide (n ≤ 8)

/-- `buf.TXBUF[k]` (R27). -/
def State.txBuf (s : State) (k : Nat) : Byte := s.readByte (txBufBase + k)

/-- `START_LEN = 1 + CTRL.START2` (R16). -/
def State.startLen (s : State) : Nat := if s.ctrl.start2 then 2 else 1

/-- The count byte of a batch buffer (R29, R30). -/
def State.batchCount (s : State) (base : Nat) : Nat := (s.readByte base).toNat

/-- The id and value of record `k` of a batch buffer (R29, R30). -/
def State.recordId (s : State) (base k : Nat) : Byte := s.readByte (base + 1 + 3 * k)
def State.recordValue (s : State) (base k : Nat) : Half := s.readHalf (base + 2 + 3 * k)

/-- The three bytes of record `k`, in wire order (R68). -/
def State.recordBytes (s : State) (base k : Nat) : List Byte :=
  [s.readByte (base + 1 + 3 * k), s.readByte (base + 2 + 3 * k), s.readByte (base + 3 + 3 * k)]

/-- The bytes of records `0 .. c-1`. -/
def State.batchBody (s : State) (base c : Nat) : List Byte :=
  (List.range c).flatMap fun k => s.recordBytes base k

/-- The checksum's seed (R70). -/
def State.checksumSeed (s : State) : Byte :=
  if s.ctrl.ckSeed then BitVec.ofNat 8 (0xFF * s.startLen) else 0

/-- The checksum of a count and the records a buffer holds, an 8-bit wrap-around sum (R70, R133). -/
def State.checksum (s : State) (base c : Nat) : Byte :=
  (s.batchBody base c).foldl (· + ·) (s.checksumSeed + BitVec.ofNat 8 c)

/-- The trailer of a frame: the checksum, or 0x00 in the zero-end variant (R68). -/
def State.trailerOf (s : State) (base c : Nat) : Byte :=
  if s.ctrl.zeroEnd then 0 else s.checksum base c

/-- The master bytes of a transaction (R71). -/
def txnBytes (c d : Byte) (v : Half) : List Byte :=
  if d = 255 then [c, 255, lo v, hi v, 0, 0, 0, 0] else [c, d, lo v, hi v]

/-- `conv(x, S, D) = rnd(x * D / S)`, exactly (R10, R75). -/
def conv (x full target : Nat) : Nat := (2 * x * target + full) / (2 * full)

/-- `Rescale(x, S, D)` without its flag (R75). -/
def rescale (x full target : Nat) : Nat := min (conv x full target) target

/-- The exponent `e` with `2^e <= n/d < 2^(e+1)`, for positive `n` and `d`. -/
def ratExponent (n d : Nat) : Int :=
  let e : Int := (n.log2 : Int) - (d.log2 : Int)
  let below := if 0 ≤ e then n < d * 2 ^ e.toNat else n * 2 ^ (-e).toNat < d
  if below then e - 1 else e

/-- `n / d` to the nearest integer, ties to even. -/
def divNearestEven (n d : Nat) : Nat :=
  let q := n / d
  let r := n % d
  if d < 2 * r || (2 * r = d && q % 2 = 1) then q + 1 else q

/-- The binary32 word of the rational `n / d`, rounded to nearest, ties to even (R85; the format and its
underflow and overflow are IEEE 754's: log 14, PRESUMED). -/
def binary32 (n d : Nat) : Word :=
  if n = 0 then 0
  else
    let e := max (ratExponent n d) (-126)
    let scale : Int := 23 - e
    let m :=
      if 0 ≤ scale then divNearestEven (n * 2 ^ scale.toNat) d
      else divNearestEven n (d * 2 ^ (-scale).toNat)
    BitVec.ofNat 32 (min ((e + 126).toNat * 2 ^ 23 + m) 0x7F800000)

end Sys2Proof.Machine
end

