-- ==== Sys2Proof/Machine/Peer.lean ====
section
/-! DEFINITION. The free values (`Draw(T)`, 00_scope.md R11) and the slave peer's byte exchange
(46_slave_peer.md R124 to R129). -/

namespace Sys2Proof.Machine

/-- The value the next draw takes: one the environment has settled, else a free value (log 3). -/
def Draws.head (d : Draws) : Word :=
  match d.settled with
  | [] => Config.freeWord d.count
  | v :: _ => v

/-- The draws after one is taken. -/
def Draws.tail (d : Draws) : Draws := { settled := d.settled.tail, count := d.count + 1 }

/-- The draws after `n` are taken. -/
def Draws.skip : Nat → Draws → Draws
  | 0, d => d
  | n + 1, d => Draws.skip n d.tail

/-- The value the draw after `n` others takes. -/
def Draws.peek (n : Nat) (d : Draws) : Word := (d.skip n).head

/-- `Draw(u8)`, `Draw(u10)`, `Draw(u16)`: the low bits of a draw. -/
def drawByte (d : Draws) : Byte := d.head.setWidth 8
def drawTen (d : Draws) : BitVec 10 := d.head.setWidth 10
def drawHalf (d : Draws) : Half := d.head.setWidth 16

/-- The bytes a slave stages for a `sensor_id` (R128), low byte first. -/
def stagedBytes (m : Byte) (p1 p2 j : Half) : List Byte :=
  if m = 1 then [lo p1, hi p1]
  else if m = 2 then [lo p2, hi p2]
  else if m = 3 then [lo j, hi j]
  else if m = 255 then [lo p1, hi p1, lo p2, hi p2, lo j, hi j]
  else []

/-- The transaction length a `sensor_id` asks for (R128). -/
def requestLen (m : Byte) : FrameLen := if m = 255 then .eight else .four

/-- Position 0: the incoming byte is the `command_id`, and `tx_reg` becomes a draw (R127). -/
def Peer.takeCommand (m : Byte) (p : Peer) (d : Draws) : Peer × Draws :=
  ({ p with commandId := m, txReg := drawByte d }, d.tail)

/-- Position 1: the incoming byte is the `sensor_id`, and `Stage` runs (R128): three sensor values are
drawn, one for each field, and the first staged byte is loaded, or a draw where nothing is staged. -/
def Peer.stage (timing : LenTiming) (m : Byte) (p : Peer) (d : Draws) : Peer × Draws :=
  let staged := stagedBytes m (drawHalf d) (drawHalf d.tail) (drawHalf d.tail.tail)
  let d3 := d.skip 3
  ({ p with
      sensorId := m
      staged := staged
      maxSpiIndex := if timing = .current then requestLen m else p.maxSpiIndex
      pendingLen := requestLen m
      txReg := staged.headD (drawByte d3) },
    if staged.isEmpty then d3.tail else d3)

/-- `Receive(i, m)` for `i >= 2` (R129): half of the command value comes in, and the next staged byte,
or a draw, is loaded. -/
def Peer.receive (trailing : Bool) (i : Nat) (m : Byte) (p : Peer) (d : Draws) : Peer × Draws :=
  let q :=
    if (i - 2) % 2 = 0 then { p with rxLo := m }
    else if p.commandId = 1 && (decide (i = 3) || trailing) then { p with desired := half p.rxLo m }
    else p
  if i - 1 < p.staged.length then ({ q with txReg := p.staged.getD (i - 1) 0 }, d)
  else ({ q with txReg := drawByte d }, d.tail)

/-- `Advance(i)` (R129). -/
def Peer.advance (timing : LenTiming) (i : Nat) (p : Peer) : Peer :=
  let next := (i + 1) % p.maxSpiIndex.bytes
  if next = 0 ∧ timing = .previous then { p with spiIndex := next, maxSpiIndex := p.pendingLen }
  else { p with spiIndex := next }

/-- What the peer's byte interrupt does with an incoming byte at its position (R127). The byte shifted
out meanwhile is the `tx_reg` before it. -/
def Peer.handle (ps : Params) (m : Byte) (p : Peer) (d : Draws) : Peer × Draws :=
  let i := p.spiIndex
  let r :=
    if i = 0 then p.takeCommand m d
    else if i = 1 then p.stage ps.lenTiming m d
    else p.receive ps.trailingWrite i m d
  (r.1.advance ps.lenTiming i, r.2)

/-- A peer whose whole SPI state is drawn, after an exchange that started before the slave had handled
the byte before (70_reset_and_hazards.md R165). -/
def Peer.drawn (p : Peer) (d : Draws) : Peer :=
  let b := fun n => (d.peek n).setWidth 8
  let len := fun n => if (d.peek n).getLsbD 0 then FrameLen.eight else FrameLen.four
  { attached := p.attached
    spiIndex := (b 0).toNat
    maxSpiIndex := len 1
    pendingLen := len 2
    commandId := b 3
    sensorId := b 4
    staged := [b 6, b 7, b 8, b 9, b 10, b 11].take
      (if (d.peek 5).toNat % 3 = 0 then 0 else if (d.peek 5).toNat % 3 = 1 then 2 else 6)
    rxLo := b 12
    txReg := b 13
    desired := (d.peek 14).setWidth 16
    readyAt := p.readyAt }

/-- How many draws `Peer.drawn` takes. -/
def peerDraws : Nat := 15

/-- When the peer has handled a byte whose exchange starts at `start`: `T_SLAVE_ISR` after it, or after
the byte before, whichever is later (R165; log 7). -/
def Peer.handledBy (ps : Params) (start : Nat) (p : Peer) : Nat := max start p.readyAt + ps.tSlaveIsr

/-- The reply byte, the peer and the draws after `PeerExchange(s, m)` (R127) with an attached slave, for
an exchange that starts at `start`. At an early exchange, one before the slave has handled the byte
before, reply and peer state are draws (R165, 93_implementation_defined.md I13). -/
def Peer.exchange (ps : Params) (start : Nat) (m : Byte) (p : Peer) (d : Draws) : Byte × Peer × Draws :=
  let t := p.handledBy ps start
  if p.readyAt ≤ start then
    let r := p.handle ps m d
    (p.txReg, { r.1 with readyAt := t }, r.2)
  else (drawByte d, { p.drawn d.tail with readyAt := t }, d.tail.skip peerDraws)

end Sys2Proof.Machine
end

