-- ==== Sys2Proof/Machine/Ops.lean ====
section
/-! DEFINITION. The named operations of the block: mux and chip-select (42_mux.md R87; 44_spi_transport.md
R98 to R101), the byte exchange (R100), slave records (R120), the sensor batch (45_fanout.md R121), raising
and clearing errors (60_exceptions.md R145, R149, R152), the end of an operation (R147), the two resets
(70_reset_and_hazards.md R159). -/

namespace Sys2Proof.Machine

/-! ## Errors: the equivalent of taking an exception and of returning from one (R152) -/

/-- `End()` (R101), at one instant: the chip-select goes high and is released, the bracket is closed, and
`MUX_CH` stays. -/
def State.endNow (s : State) : State :=
  { s with cs := .released, bracket := .closed, bus := s.bus ++ [.released] }

/-- An operation ends: `BUSY <- 0`, `DONE <- 1` (R147). -/
def State.finish (s : State) : State := { s with seq := .idle, done := true }

/-- `raise E_K(info)` (R145, R149): the error is recorded, a bracket the operation itself opened is
closed, and the operation ends; everything before the raise stays. -/
def State.raiseError (k : ErrorKind) (info : Half) (loc : Locals) (s : State) : State :=
  let r := s.record k info
  (if loc.ownBracket && r.isOpen then r.endNow else r).finish

/-- The controller's `ERR` write (R145, R152): each `KIND` bit written with 1 is cleared; if `KIND` is
then all zero, `LAST_CAUSE` and `ERRINFO` become 0. -/
def State.clearErrors (w : Word) (s : State) : State :=
  let kind := s.errKind &&& ~~~(w.extractLsb' 1 12)
  if kind = 0 then { s with errKind := 0, lastCause := 0, errInfo := 0 } else { s with errKind := kind }

/-! ## Pins -/

/-- `SetMux(ch)` (R87): both pin groups at one instant; the line is settled `T_SETTLE` later. -/
def State.setMux (ch : BitVec 6) (s : State) : State :=
  { s with
    muxL := ch.extractLsb' 0 3
    muxU := ch.extractLsb' 3 3
    settledAt := s.now + s.params.tSettle }

/-- `Wait(T_SETTLE)` (R87): at least that long passes. -/
def State.settle (s : State) : State := { s with now := s.now + s.params.tSettle }

/-- The mux channel of slave index `i` (R67). -/
def slaveChannel (i : Nat) : BitVec 6 := BitVec.ofNat 6 (i + Config.slaveChBase)

/-- `SetCS(LOW)`, `bracket <- OPENED(s)`, `last_byte_end <- none` (R101), one instant (log 4). -/
def State.assertCs (i : Nat) (s : State) : State :=
  { s with
    cs := .low
    bracket := .opened i
    lastByteEnd := none
    bus := s.bus ++ [.asserted s.muxCh] }

/-- `SetCS(HIGH)` (R101). -/
def State.raiseCs (s : State) : State := { s with cs := .high }

/-- Slave `i` is selected exactly when `CS = LOW`, the mux is on its channel, and the line has settled
(R98). -/
def State.selects (s : State) (i : Nat) : Bool :=
  decide (s.cs = .low) && decide (s.muxCh = slaveChannel i) && decide (s.settledAt ≤ s.now)

/-! ## The byte exchange -/

/-- When the next byte of the bracket starts: `T_IB` after the end of the one before (R99). -/
def State.byteStart (s : State) : Nat :=
  match s.lastByteEnd with
  | none => s.now
  | some t => max s.now (t + s.params.tIb)

/-- The reply, the peers and the draws of an exchange with slave `i`. Where no slave drives `MISO` (none
is attached at the index, or it is not selected) the reply is a draw and no peer changes (R98, R126,
93_implementation_defined.md I14). -/
def State.peerReply (i : Nat) (out : Byte) (s : State) : Byte × List Peer × Draws :=
  match s.peers[i]? with
  | none => (drawByte s.draws, s.peers, s.draws.tail)
  | some p =>
    if p.attached && s.selects i then
      let r := p.exchange s.params s.byteStart out s.draws
      (r.1, s.peers.set i r.2.1, r.2.2)
    else (drawByte s.draws, s.peers, s.draws.tail)

/-- The exchange on the open bracket's slave; outside a bracket no slave answers. -/
def State.busReply (out : Byte) (s : State) : Byte × List Peer × Draws :=
  match s.bracket with
  | .closed => (drawByte s.draws, s.peers, s.draws.tail)
  | .opened i => s.peerReply i out

/-- The reply byte of `SpiXfer(out)`. -/
def State.replyByte (out : Byte) (s : State) : Byte := (s.busReply out).1

/-- The state after `SpiXfer(out)` (R100). -/
def State.exchange (out : Byte) (s : State) : State :=
  { s with
    now := s.byteStart
    lastByteEnd := some s.byteStart
    peers := (s.busReply out).2.1
    draws := (s.busReply out).2.2
    bus := s.bus ++ [.byte out (s.replyByte out)] }

/-! ## Results, records and batches -/

/-- `RESULT` is written (R21). -/
def State.setResult (r0 r1 : Half) (s : State) : State := { s with res0 := r0, res1 := r1 }

/-- `buf.RXBUF[i][k] <- b` (R28). -/
def State.setRxBuf (i k : Nat) (b : Byte) (s : State) : State := s.writeByte (rxBufBase + 8 * i + k) b

/-- `w(k) = r[k] + 256 * r[k+1]` (R120). -/
def replyWord (r : List Byte) (k : Nat) : Half := half (r.getD k 0) (r.getD (k + 1) 0)

/-- `TxnUpdate(s, c, d, v, r)`: `SLAVEREC[s]` changes at one instant (R120, R48). -/
def State.updateRecord (i : Nat) (c d : Byte) (v : Half) (r : List Byte) (s : State) : State :=
  let base := slaveRecBase + 8 * i
  let s1 := if c = 1 then s.writeHalf (base + 6) v else s
  if d = 1 then s1.writeHalf base (replyWord r 2)
  else if d = 2 then s1.writeHalf (base + 2) (replyWord r 2)
  else if d = 3 then s1.writeHalf (base + 4) (replyWord r 2)
  else if d = 255 then
    ((s1.writeHalf base (replyWord r 2)).writeHalf (base + 2) (replyWord r 4)).writeHalf (base + 4)
      (replyWord r 6)
  else s1

/-- The end of `RDBATCH` (R135), at one instant: the batch becomes valid with its count, `RESULT` is
written and the operation ends, so an abandoned `RDBATCH` has no count (48_control.md R141; log 4). -/
def State.keepBatch (count : Byte) (trailer : Half) (s : State) : State :=
  ((s.writeByte cmdBatchBase count).setResult (zext count) trailer).finish

/-- `UNKCNT` counts one more dropped record, saturating (R23, R122). -/
def State.countUnknown (s : State) : State :=
  { s with unkCnt := if s.unkCnt = 0xFFFF then 0xFFFF else s.unkCnt + 1 }

/-- `AdcSample()` into `RES0` (R89, R91). -/
def State.sampleAdc (s : State) : State :=
  { s with res0 := (drawTen s.draws).setWidth 16, res1 := 0, draws := s.draws.tail }

/-- `DAC_OUT <- y` (R25). -/
def State.setDac (y : BitVec 12) (s : State) : State := { s with dac := y }

/-! ## The host streams -/

/-- `TxByte(b)` (R59). -/
def State.transmit (b : Byte) (s : State) : State := { s with tx := s.tx ++ [b] }

/-- The host appends a byte (R58). -/
def State.hostSend (b : Byte) (s : State) : State := { s with rx := s.rx ++ [b] }

/-- The host takes the oldest byte of `TX` (R59). -/
def State.hostTake (s : State) : State := { s with tx := s.tx.tail }

/-- The search starts: `W <- [0x00] * START_LEN` (R132). -/
def State.startSearch (s : State) : State := { s with window := List.replicate s.startLen 0 }

/-- A byte is shifted into the window (R132). -/
def State.shiftWindow (b : Byte) (s : State) : State := { s with window := s.window.drop 1 ++ [b] }

/-- Every byte of the window is 0xFF (R132). -/
def State.markerSeen (s : State) : Bool := s.window.all fun b => decide (b = 0xFF)

/-- The search has taken `SYNCLIM` bytes (R132). -/
def State.searchSpent (n : Nat) (s : State) : Bool :=
  decide (s.syncLim ≠ 0) && decide (s.syncLim.toNat ≤ n)

/-! ## The two resets -/

/-- `SRST` (48_control.md R141): the running operation is abandoned, an open bracket is closed, and
nothing else changes but `DONE`. -/
def State.softReset (s : State) : State :=
  let t := if s.isOpen then s.endNow else s
  { t with lastByteEnd := none, seq := .idle, done := true }

/-- Power-on reset (R159, R160): the block's state takes its reset values. The parameters, the slaves,
the oracle's values, time, the bus history and what the other agents do next are not the block's
(log 18); the history records that an asserted chip-select is released. -/
def State.powerOn (s : State) : State :=
  { State.reset with
    params := s.params
    peers := s.peers
    now := s.now
    settledAt := s.now
    draws := s.draws
    bus := if s.isOpen then s.bus ++ [.released] else s.bus
    moves := s.moves }

end Sys2Proof.Machine
end

