-- ==== Sys2Proof/Machine/Micro.lean ====
section
/-! DEFINITION. The sequencer (10_state.md R34; 60_exceptions.md R147): the effect of each step of an
operation, one step of the sequencer (`tick`), and the sequencer running until the operation ends or
waits for a host byte (`run`). -/

namespace Sys2Proof.Machine

/-- What a step does: it is done, with the local values and with steps it puts before the rest; it waits
for a host byte; or it ends the operation. -/
inductive Progress where
  | go (s : State) (loc : Locals) (more : List Micro)
  | waits
  | stops (s : State)
  deriving DecidableEq, Repr

/-- `RxByte()` (20_memory.md R57): take the oldest byte of `RX`, or wait. -/
def State.takeByte (s : State) (k : Byte → State → Progress) : Progress :=
  match s.rx with
  | [] => .waits
  | b :: rest => k b { s with rx := rest }

/-- One byte of the search (47_framing.md R132): the match test comes before the limit test. -/
def searchStep (loc : Locals) (b : Byte) (s : State) : Progress :=
  let t := s.shiftWindow b
  let n := loc.taken + 1
  if t.markerSeen then .go t { loc with taken := n } []
  else if t.searchSpent n then .stops (t.raiseError .desync (toHalf n) loc)
  else .go t { loc with taken := n } [.searchByte]

/-- The steps of `RDBATCH` after its count byte `c` (47_framing.md R135). -/
def readRecords (check : RxCheck) (c : Byte) : List Micro :=
  (List.range (3 * c.toNat)).map (fun j => Micro.takeInto (cmdBatchBase + 1 + j)) ++
    (if check = .none then [] else [.takeTrailer c]) ++
    [.keepBatch c]

/-- The count byte of a frame (47_framing.md R135): above `CMD_MAX` it is refused. -/
def countStep (loc : Locals) (c : Byte) (s : State) : Progress :=
  if Config.cmdMax < c.toNat then .stops (s.raiseError .len (zext c) loc)
  else .go s loc (readRecords s.ctrl.rxChk c)

/-- The trailer byte `t` of a frame of `c` records (47_framing.md R135), checked as `RXCHK` says. -/
def trailerStep (c : Byte) (loc : Locals) (t : Byte) (s : State) : Progress :=
  if t = s.trailerOf cmdBatchBase c.toNat then .go s { loc with trailer := t } []
  else if s.ctrl.rxChk = .discard then .stops (s.raiseError .checksum (zext t) loc)
  else .go (s.record .checksum (zext t)) { loc with trailer := t } []

/-- `Append(id, v)` (45_fanout.md R121): the four buffer writes, or the record is dropped. -/
def appendStep (id : Byte) (v : Half) (loc : Locals) (s : State) : Progress :=
  let c := s.batchCount sensBatchBase
  if Config.sensMax ≤ c then .go (s.record .len (zext id)) loc []
  else
    .go s loc
      [.poke (sensBatchBase + 1 + 3 * c) id, .poke (sensBatchBase + 2 + 3 * c) (lo v),
        .poke (sensBatchBase + 3 + 3 * c) (hi v), .poke sensBatchBase (BitVec.ofNat 8 (c + 1))]

/-- `flag E_RANGE(x)` if `x` is above the source full scale (41_codec.md R75). -/
def rangeFlag (x : Half) (full : Nat) : List Micro :=
  if full < x.toNat then [.flag .range x] else []

/-- The 10-bit to 12-bit scaling of the DAC mirror (45_fanout.md R123). -/
def mirrorSteps (v : Half) : List Micro :=
  let y := rescale v.toNat 1023 4095
  rangeFlag v 1023 ++ [.setDac (BitVec.ofNat 12 y), .result (toHalf y) 0]

/-- An exchange (44_spi_transport.md R100): the reply joins the local `r` and, where the operation's rule
says so, `RXBUF`. -/
def exchangeStep (out : Byte) (dest : Dest) (loc : Locals) (s : State) : Progress :=
  let b := s.replyByte out
  let t := s.exchange out
  let u := match dest with
    | .discard => t
    | .rxBuf i k => t.setRxBuf i k b
  .go u { loc with replies := loc.replies ++ [b] } []

/-- The effect of one step. -/
def stepMicro (m : Micro) (loc : Locals) (s : State) : Progress :=
  match m with
  | .setMux ch => .go (s.setMux ch) loc []
  | .settle => .go s.settle loc []
  | .assertCs i => .go (s.assertCs i) { loc with replies := [], ownBracket := true } []
  | .raiseCs => .go s.raiseCs loc []
  | .releaseCs => .go s.endNow { loc with ownBracket := false } []
  | .exchange out dest => exchangeStep out dest loc s
  | .sampleAdc => .go s.sampleAdc loc []
  | .poke off b => .go (s.writeByte off b) loc []
  | .keepReplies i n =>
    .go s loc ((List.range n).map fun k => .poke (rxBufBase + 8 * i + k) (loc.replies.getD k 0))
  | .updateRecord i c d v => .go (s.updateRecord i c d v loc.replies) loc []
  | .append id v => appendStep id v loc s
  | .appendReply id => appendStep id (replyWord loc.replies 2) { loc with real := loc.real + 1 } s
  | .countUnknown => .go s.countUnknown { loc with unk := loc.unk + 1 } []
  | .startSearch => .go s.startSearch { loc with taken := 0 } []
  | .searchByte => s.takeByte (searchStep loc)
  | .takeCount => s.takeByte (countStep loc)
  | .takeInto off => s.takeByte fun b t => .go (t.writeByte off b) loc []
  | .takeTrailer c => s.takeByte (trailerStep c loc)
  | .transmit b => .go (s.transmit b) loc []
  | .result r0 r1 => .go (s.setResult r0 r1) loc []
  | .resultReply8 => .go (s.setResult (zext (loc.replies.getD 0 0)) 0) loc []
  | .resultReply16 => .go (s.setResult (replyWord loc.replies 0) 0) loc []
  | .resultTxn all =>
    .go (s.setResult (replyWord loc.replies 2) (if all then replyWord loc.replies 4 else 0)) loc []
  | .resultSwap => .go (s.setResult (toHalf loc.real) (toHalf loc.unk)) loc []
  | .resultSearch => .go (s.setResult (toHalf (min loc.taken 0xFFFF)) 0) loc []
  | .keepBatch c => .stops (s.keepBatch c (zext loc.trailer))
  | .setDac y => .go (s.setDac y) loc []
  | .flag k info => .go (s.record k info) loc []
  | .raise k info => .stops (s.raiseError k info loc)

/-- One step of the sequencer: the next step of the running operation, its end when none is left, and
nothing while it is idle or waits. -/
def tick (s : State) : State :=
  match s.seq with
  | .idle => s
  | .running r =>
    match r.todo with
    | [] => s.finish
    | m :: rest =>
      match stepMicro m r.loc s with
      | .go t loc more => { t with seq := .running { op := r.op, todo := more ++ rest, loc := loc } }
      | .waits => s
      | .stops t => t

/-- The step waits for a host byte when `RX` is empty. -/
def Micro.takesByte : Micro → Bool
  | .searchByte => true
  | .takeCount => true
  | .takeInto _ => true
  | .takeTrailer _ => true
  | _ => false

/-- The running operation waits for a host byte (R57). -/
def State.waiting (s : State) : Bool :=
  match s.seq with
  | .idle => false
  | .running r =>
    match r.todo with
    | [] => false
    | m :: _ => m.takesByte && s.rx.isEmpty

/-- Nothing is left for the sequencer to do by itself. -/
def State.quiescent (s : State) : Bool := !s.busy || s.waiting

/-- A bound on the steps one step leads to, itself counted, host bytes apart. -/
def Micro.weight : Micro → Nat
  | .keepReplies _ n => n + 1
  | .append _ _ => 5
  | .appendReply _ => 5
  | .takeCount => 120
  | .setMux _ => 1
  | .settle => 1
  | .assertCs _ => 1
  | .raiseCs => 1
  | .releaseCs => 1
  | .exchange _ _ => 1
  | .sampleAdc => 1
  | .poke _ _ => 1
  | .updateRecord _ _ _ _ => 1
  | .countUnknown => 1
  | .startSearch => 1
  | .searchByte => 1
  | .takeInto _ => 1
  | .takeTrailer _ => 1
  | .transmit _ => 1
  | .result _ _ => 1
  | .resultReply8 => 1
  | .resultReply16 => 1
  | .resultTxn _ => 1
  | .resultSwap => 1
  | .resultSearch => 1
  | .keepBatch _ => 1
  | .setDac _ => 1
  | .flag _ _ => 1
  | .raise _ _ => 1

/-- A bound on the sequencer steps until it is quiescent: the steps left, the host bytes there, and the
end of the operation. -/
def State.work (s : State) : Nat :=
  match s.seq with
  | .idle => 0
  | .running r => (r.todo.map Micro.weight).sum + s.rx.length + 1

/-- The sequencer takes steps until it is quiescent, at most `n`. -/
def run : Nat → State → State
  | 0, s => s
  | n + 1, s => if s.quiescent then s else run n (tick s)

/-- The sequencer runs until the operation ends or waits for the host. -/
def drain (s : State) : State := run s.work s

/-- `RUNNING(op, step)` with these steps left (10_state.md R34). -/
def State.started (i : Instr) (todo : List Micro) (s : State) : State :=
  { s with seq := .running { op := i, todo := todo, loc := {} } }

/-- An operation is accepted (60_exceptions.md R148): `BUSY <- 1`, its first step next. A byte its rule
stores first (the count `RDBATCH` and `SWAP` clear) is stored at this instant, so an operation is never
abandoned before it (48_control.md R141; log 4). -/
def accept (i : Instr) (todo : List Micro) (s : State) : State :=
  match todo with
  | .poke off b :: rest => (s.writeByte off b).started i rest
  | _ => s.started i todo

/-- A `CMD` write other than `SRST` (60_exceptions.md R148): refused with `E_BUSY` while an operation
runs, else accepted. -/
def issueOp (i : Instr) (todo : List Micro) (s : State) : State :=
  if s.busy then s.record .busy 0x00C else accept i todo s

/-- A `CMD` write whose `OP` is not in the table (30_encoding.md R63; R148): it is accepted and ends at
once with `E_ILLEGAL`, or is refused with `E_BUSY`. -/
def issueIllegal (op : Byte) (s : State) : State :=
  if s.busy then s.record .busy 0x00C else s.raiseError .illegal (zext op) {}

/-- The operation line of 30_encoding.md R73: the `CMD` write, then `WAIT` (log 2). A write that is
refused changes nothing else. -/
def operate (i : Instr) (todo : List Micro) (s : State) : Host.Outcome State Fault Refusal :=
  .next (if s.busy then s.record .busy 0x00C else drain (accept i todo s))

end Sys2Proof.Machine
end

