-- ==== Sys2Proof/Machine/Codec.lean ====
section
/-! DEFINITION. Byte codec operations (41_codec.md R74 to R86). -/

namespace Sys2Proof.Machine

/-- A range conversion (R75): the flag for an input above the source full scale, then the result. -/
def rescaleSteps (x : Half) (full target : Nat) : List Micro :=
  rangeFlag x full ++ [.result (toHalf (rescale x.toNat full target)) 0]

/-- `min(v, 4095)` (R84, R86). -/
def clamp12 (v : Half) : BitVec 12 := BitVec.ofNat 12 (min v.toNat 4095)

/-- The binary32 word of `min(x, 1023) * V_REF / 1023` (R85). -/
def voltageWord (p : Params) (x : Half) : Word :=
  binary32 (min x.toNat 1023 * p.vRefNum) (1023 * p.vRefDen)

/-- R76. -/
def stepsU16fb (low high : Byte) : List Micro := [.result (half low high) 0]

def execU16fb (low high : Byte) (s : State) : Host.Outcome State Fault Refusal :=
  operate (.u16fb low high) (stepsU16fb low high) s

/-- R77. -/
def stepsBfu16 (v : Half) : List Micro := [.result (zext (lo v)) (zext (hi v))]

def execBfu16 (v : Half) (s : State) : Host.Outcome State Fault Refusal :=
  operate (.bfu16 v) (stepsBfu16 v) s

/-- R78. -/
def stepsU10to16 (x : Half) : List Micro := rescaleSteps x 1023 65535

def execU10to16 (x : Half) (s : State) : Host.Outcome State Fault Refusal :=
  operate (.u10to16 x) (stepsU10to16 x) s

/-- R79. -/
def stepsU16to10 (x : Half) : List Micro := rescaleSteps x 65535 1023

def execU16to10 (x : Half) (s : State) : Host.Outcome State Fault Refusal :=
  operate (.u16to10 x) (stepsU16to10 x) s

/-- R80. -/
def stepsU10to12 (x : Half) : List Micro := rescaleSteps x 1023 4095

def execU10to12 (x : Half) (s : State) : Host.Outcome State Fault Refusal :=
  operate (.u10to12 x) (stepsU10to12 x) s

/-- R81. -/
def stepsU12to10 (x : Half) : List Micro := rescaleSteps x 4095 1023

def execU12to10 (x : Half) (s : State) : Host.Outcome State Fault Refusal :=
  operate (.u12to10 x) (stepsU12to10 x) s

/-- R82. -/
def stepsU12to16 (x : Half) : List Micro := rescaleSteps x 4095 65535

def execU12to16 (x : Half) (s : State) : Host.Outcome State Fault Refusal :=
  operate (.u12to16 x) (stepsU12to16 x) s

/-- R83. -/
def stepsU16to12 (x : Half) : List Micro := rescaleSteps x 65535 4095

def execU16to12 (x : Half) (s : State) : Host.Outcome State Fault Refusal :=
  operate (.u16to12 x) (stepsU16to12 x) s

/-- R84. -/
def stepsClamp12 (v : Half) : List Micro :=
  rangeFlag v 4095 ++ [.result ((clamp12 v).setWidth 16) 0]

def execClamp12 (v : Half) (s : State) : Host.Outcome State Fault Refusal :=
  operate (.clamp12 v) (stepsClamp12 v) s

/-- R85: `RES0` is the low half of the binary32 word, `RES1` the high half. -/
def stepsAdc2v (x : Half) (s : State) : List Micro :=
  let w := voltageWord s.params x
  rangeFlag x 1023 ++ [.result (w.extractLsb' 0 16) (w.extractLsb' 16 16)]

def execAdc2v (x : Half) (s : State) : Host.Outcome State Fault Refusal :=
  operate (.adc2v x) (stepsAdc2v x s) s

/-- R86. -/
def stepsDacwr (v : Half) : List Micro :=
  rangeFlag v 4095 ++ [.setDac (clamp12 v), .result ((clamp12 v).setWidth 16) 0]

def execDacwr (v : Half) (s : State) : Host.Outcome State Fault Refusal :=
  operate (.dacwr v) (stepsDacwr v) s

end Sys2Proof.Machine
end

