-- ==== Sys2Proof/Machine/Control.lean ====
section
/-! DEFINITION. Control operations (48_control.md R140, R141). -/

namespace Sys2Proof.Machine

/-- `NOP` does nothing (R140). -/
def stepsNop : List Micro := []

def execNop (s : State) : Host.Outcome State Fault Refusal := operate .nop stepsNop s

/-- `SRST` runs at once, whatever `BUSY` is (R141, R148). -/
def execSrst (s : State) : Host.Outcome State Fault Refusal := .next s.softReset

end Sys2Proof.Machine
end

