-- ==== Sys2Proof/Machine/Transport.lean ====
section
/-! DEFINITION. SPI transport and bus arbitration operations (44_spi_transport.md R98 to R120). -/

namespace Sys2Proof.Machine

/-- `Begin(i)` (R101). -/
def beginSteps (i : Nat) : List Micro := [.setMux (slaveChannel i), .settle, .assertCs i]

/-- `End()` (R101). -/
def endSteps : List Micro := [.raiseCs, .releaseCs]

/-! ## Raw bracket operations -/

/-- R104. -/
def stepsBegin (index : Nat) (s : State) : List Micro :=
  if s.isOpen then [.raise .nest (toHalf index)]
  else if s.params.nSlaves ≤ index then [.raise .badArg (toHalf index)]
  else beginSteps index

def execBegin (index : Nat) (s : State) : Host.Outcome State Fault Refusal :=
  operate (.beginBracket index) (stepsBegin index s) s

/-- R105. -/
def stepsEnd (s : State) : List Micro := if s.isOpen then endSteps else [.raise .unbal 0]

def execEnd (s : State) : Host.Outcome State Fault Refusal := operate .endBracket (stepsEnd s) s

/-- R106. -/
def stepsXfer8 (out : Byte) (s : State) : List Micro :=
  if s.isOpen then [.exchange out .discard, .resultReply8] else [.raise .unbal (zext out)]

def execXfer8 (out : Byte) (s : State) : Host.Outcome State Fault Refusal :=
  operate (.xfer8 out) (stepsXfer8 out s) s

/-- R107: two byte exchanges, low byte first. -/
def stepsXfer16 (out : Half) (s : State) : List Micro :=
  if s.isOpen then [.exchange (lo out) .discard, .exchange (hi out) .discard, .resultReply16]
  else [.raise .unbal 0]

def execXfer16 (out : Half) (s : State) : Host.Outcome State Fault Refusal :=
  operate (.xfer16 out) (stepsXfer16 out s) s

/-- `for k in 0 .. n-1: buf.RXBUF[i][k] <- SpiXfer(out(k))`. -/
def exchangeAll (out : Nat → Byte) (i n : Nat) : List Micro :=
  (List.range n).map fun k => .exchange (out k) (.rxBuf i k)

/-- R108. -/
def stepsXfern (n : Nat) (s : State) : List Micro :=
  match s.bracket with
  | .closed => [.raise .unbal 0]
  | .opened i =>
    if goodCount n then exchangeAll s.txBuf i n ++ [.result (toHalf n) 0]
    else [.raise .badArg (toHalf n)]

def execXfern (n : Nat) (s : State) : Host.Outcome State Fault Refusal :=
  operate (.xfern n) (stepsXfern n s) s

/-! ## Bracketed operations -/

/-- One bracket for each target, in order (R109). -/
def bracketAll (tier : Nat → List Micro) (targets : List Nat) : List Micro :=
  targets.flatMap fun i => beginSteps i ++ tier i ++ endSteps

/-- The form of every operation of section 3 (R109): the bracket check, the tier's length check, the
targets, their brackets, the result for the number of targets. -/
def bracketed (a : Byte) (lengthCheck : List Micro) (tier : Nat → List Micro)
    (outcome : Nat → Micro) (s : State) : List Micro :=
  if s.isOpen then [.raise .nest (zext a)]
  else if lengthCheck ≠ [] then lengthCheck
  else match s.targets a with
    | none => [.raise .unknownId (zext a)]
    | some targets => bracketAll tier targets ++ [outcome targets.length]

/-- The array tier's check of its length (R109). -/
def checkCount (n : Nat) : List Micro := if goodCount n then [] else [.raise .badArg (toHalf n)]

/-- The result of a write: the number of slaves reached (R109). -/
def reached (count : Nat) : Micro := .result (toHalf count) 0

/-- The result of a read: the reply of one slave, or the number of slaves for `ALL` (R109; log 13). -/
def replyOr (a : Byte) (single : Micro) (count : Nat) : Micro := if a = 255 then reached count else single

/-- The result of the array tier (R109). -/
def reachedBytes (n count : Nat) : Micro := .result (toHalf count) (toHalf n)

/-- R110. -/
def stepsSwr8 (a out : Byte) (s : State) : List Micro :=
  bracketed a [] (fun _ => [.exchange out .discard]) reached s

def execSwr8 (a out : Byte) (s : State) : Host.Outcome State Fault Refusal :=
  operate (.swr8 a out) (stepsSwr8 a out s) s

/-- R111: the dummy byte is 0x00. -/
def stepsSrd8 (a : Byte) (s : State) : List Micro :=
  bracketed a [] (exchangeAll (fun _ => 0) · 1) (replyOr a .resultReply8) s

def execSrd8 (a : Byte) (s : State) : Host.Outcome State Fault Refusal :=
  operate (.srd8 a) (stepsSrd8 a s) s

/-- R112. -/
def stepsSrw8 (a out : Byte) (s : State) : List Micro :=
  bracketed a [] (exchangeAll (fun _ => out) · 1) (replyOr a .resultReply8) s

def execSrw8 (a out : Byte) (s : State) : Host.Outcome State Fault Refusal :=
  operate (.srw8 a out) (stepsSrw8 a out s) s

/-- The bytes of a word, low byte first. -/
def halfBytes (w : Half) (k : Nat) : Byte := if k = 0 then lo w else hi w

/-- R113. -/
def stepsSwr16 (a : Byte) (out : Half) (s : State) : List Micro :=
  bracketed a [] (fun _ => [.exchange (lo out) .discard, .exchange (hi out) .discard]) reached s

def execSwr16 (a : Byte) (out : Half) (s : State) : Host.Outcome State Fault Refusal :=
  operate (.swr16 a out) (stepsSwr16 a out s) s

/-- R114. -/
def stepsSrd16 (a : Byte) (s : State) : List Micro :=
  bracketed a [] (exchangeAll (fun _ => 0) · 2) (replyOr a .resultReply16) s

def execSrd16 (a : Byte) (s : State) : Host.Outcome State Fault Refusal :=
  operate (.srd16 a) (stepsSrd16 a s) s

/-- R115. -/
def stepsSrw16 (a : Byte) (out : Half) (s : State) : List Micro :=
  bracketed a [] (exchangeAll (halfBytes out) · 2) (replyOr a .resultReply16) s

def execSrw16 (a : Byte) (out : Half) (s : State) : Host.Outcome State Fault Refusal :=
  operate (.srw16 a out) (stepsSrw16 a out s) s

/-- R116. -/
def stepsSwrn (a : Byte) (n : Nat) (s : State) : List Micro :=
  bracketed a (checkCount n) (fun _ => (List.range n).map fun k => .exchange (s.txBuf k) .discard)
    (reachedBytes n) s

def execSwrn (a : Byte) (n : Nat) (s : State) : Host.Outcome State Fault Refusal :=
  operate (.swrn a n) (stepsSwrn a n s) s

/-- R117. -/
def stepsSrdn (a : Byte) (n : Nat) (s : State) : List Micro :=
  bracketed a (checkCount n) (exchangeAll (fun _ => 0) · n) (reachedBytes n) s

def execSrdn (a : Byte) (n : Nat) (s : State) : Host.Outcome State Fault Refusal :=
  operate (.srdn a n) (stepsSrdn a n s) s

/-- R118. -/
def stepsSrwn (a : Byte) (n : Nat) (s : State) : List Micro :=
  bracketed a (checkCount n) (exchangeAll s.txBuf · n) (reachedBytes n) s

def execSrwn (a : Byte) (n : Nat) (s : State) : Host.Outcome State Fault Refusal :=
  operate (.srwn a n) (stepsSrwn a n s) s

/-! ## The master-slave transaction -/

/-- The bracket of one transaction and what is kept of its replies (R119): the exchanges, `RXBUF`, and
`TxnUpdate`. -/
def transactionSteps (c d : Byte) (v : Half) (i : Nat) : List Micro :=
  let bytes := txnBytes c d v
  beginSteps i ++ bytes.map (fun b => .exchange b .discard) ++ endSteps ++
    [.keepReplies i bytes.length, .updateRecord i c d v]

/-- R119. -/
def stepsTxn (a : Byte) (v : Half) (s : State) : List Micro :=
  if s.isOpen then [.raise .nest (zext a)]
  else match s.targets a with
    | none => [.raise .unknownId (zext a)]
    | some targets =>
      targets.flatMap (transactionSteps s.commandId s.sensorId v) ++
        [if targets.length = 1 then .resultTxn (decide (s.sensorId = 255)) else reached targets.length]

def execTxn (a : Byte) (v : Half) (s : State) : Host.Outcome State Fault Refusal :=
  operate (.txn a v) (stepsTxn a v s) s

end Sys2Proof.Machine
end

