-- ==== Sys2Proof/Machine/Fanout.lean ====
section
/-! DEFINITION. Fan-out, harvest and DAC mirror operations (45_fanout.md R121 to R123). -/

namespace Sys2Proof.Machine

/-- One command record of the batch (R122): dropped and counted if its muscle is unknown, else one
transaction and one sensor record. -/
def swapRecord (c d : Byte) (s : State) (k : Nat) : List Micro :=
  let id := s.recordId cmdBatchBase k
  let v := s.recordValue cmdBatchBase k
  match s.lookupMuscle id with
  | none => .countUnknown :: (if s.ctrl.unkErr then [.flag .unknownId (zext id)] else [])
  | some i =>
    beginSteps i ++ [c, d, lo v, hi v].map (fun b => .exchange b .discard) ++ endSteps ++
      [.keepReplies i 4, .updateRecord i c d v, .appendReply id]

/-- R122. -/
def stepsSwap (s : State) : List Micro :=
  let d := s.sensorId
  let m := s.batchCount cmdBatchBase
  if s.isOpen then [.raise .nest 0]
  else if d ≠ 1 ∧ d ≠ 2 ∧ d ≠ 3 then [.raise .badArg (zext d)]
  else if Config.cmdMax < m then [.raise .len (toHalf m)]
  else
    .poke sensBatchBase 0 :: (List.range m).flatMap (swapRecord s.commandId d s) ++
      List.replicate s.ctrl.padCount.toNat (.append 0 0) ++ [.resultSwap]

def execSwap (s : State) : Host.Outcome State Fault Refusal := operate .swap (stepsSwap s) s

/-- R123. A slot holds a record when it is below the count byte and below 38: the buffer has no record
from 38 on, whatever count the controller wrote (10_state.md R30; log 12). -/
def stepsMirror (s : State) : List Micro :=
  let k := s.ctrl.mirrorSlot.toNat
  if s.batchCount sensBatchBase ≤ k ∨ Config.sensMax ≤ k then [.raise .badArg (toHalf k)]
  else mirrorSteps (s.recordValue sensBatchBase k)

def execMirror (s : State) : Host.Outcome State Fault Refusal := operate .mirror (stepsMirror s) s

end Sys2Proof.Machine
end

