-- ==== Sys2Proof/Machine/Framing.lean ====
section
/-! DEFINITION. Framing engine operations (47_framing.md R132 to R139). -/

namespace Sys2Proof.Machine

/-- `Sync()` (R132). -/
def searchSteps : List Micro := [.startSearch, .searchByte]

/-- R134. -/
def stepsSync : List Micro := searchSteps ++ [.resultSearch]

def execSync (s : State) : Host.Outcome State Fault Refusal := operate .sync stepsSync s

/-- R135: the records and the trailer follow the count (`readRecords`). The count is cleared as the
operation is accepted (`accept`). -/
def stepsRdbatch : List Micro := .poke cmdBatchBase 0 :: searchSteps ++ [.takeCount]

def execRdbatch (s : State) : Host.Outcome State Fault Refusal := operate .rdbatch stepsRdbatch s

/-- The bytes of a frame of the sensor batch (R68, R136). -/
def frameBytes (s : State) (c : Nat) : List Byte :=
  List.replicate s.startLen 0xFF ++ [BitVec.ofNat 8 c] ++ s.batchBody sensBatchBase c ++
    [s.trailerOf sensBatchBase c]

/-- R136. -/
def stepsWrbatch (s : State) : List Micro :=
  let c := s.batchCount sensBatchBase
  if Config.sensMax < c then [.raise .len (toHalf c)]
  else
    (frameBytes s c).map (fun b => .transmit b) ++
      [.result (toHalf (s.startLen + 1 + 3 * c + 1)) (zext (s.trailerOf sensBatchBase c))]

def execWrbatch (s : State) : Host.Outcome State Fault Refusal := operate .wrbatch (stepsWrbatch s) s

/-- R137. -/
def stepsCksumtx (s : State) : List Micro :=
  let c := s.batchCount sensBatchBase
  if Config.sensMax < c then [.raise .len (toHalf c)]
  else [.result (zext (s.checksum sensBatchBase c)) 0]

def execCksumtx (s : State) : Host.Outcome State Fault Refusal := operate .cksumtx (stepsCksumtx s) s

/-- R138. -/
def stepsClrbatch (selector : Nat) : List Micro :=
  if selector = 0 then [.poke sensBatchBase 0]
  else if selector = 1 then [.poke cmdBatchBase 0]
  else [.raise .badArg (toHalf selector)]

def execClrbatch (selector : Nat) (s : State) : Host.Outcome State Fault Refusal :=
  operate (.clrbatch selector) (stepsClrbatch selector) s

/-- R139. -/
def stepsPutrec (id : Byte) (v : Half) (s : State) : List Micro :=
  let c := s.batchCount sensBatchBase
  if Config.sensMax ≤ c then [.raise .len (zext id)]
  else [.append id v, .result (toHalf (c + 1)) 0]

def execPutrec (id : Byte) (v : Half) (s : State) : Host.Outcome State Fault Refusal :=
  operate (.putrec id v) (stepsPutrec id v s) s

end Sys2Proof.Machine
end

