-- ==== Sys2Proof/Machine/Mux.lean ====
section
/-! DEFINITION. Mux addressing operations (42_mux.md R87 to R91). -/

namespace Sys2Proof.Machine

/-- The checks of R90 and R91, then the selection of a channel. -/
def selectSteps (channel : Nat) (s : State) (andThen : List Micro) : List Micro :=
  if s.isOpen then [.raise .nest (toHalf channel)]
  else if 63 < channel then [.raise .badArg (toHalf channel)]
  else [.setMux (BitVec.ofNat 6 channel), .settle] ++ andThen

/-- R90. -/
def stepsMuxsel (channel : Nat) (s : State) : List Micro := selectSteps channel s []

def execMuxsel (channel : Nat) (s : State) : Host.Outcome State Fault Refusal :=
  operate (.muxsel channel) (stepsMuxsel channel s) s

/-- R91. -/
def stepsAdcsample (channel : Nat) (s : State) : List Micro := selectSteps channel s [.sampleAdc]

def execAdcsample (channel : Nat) (s : State) : Host.Outcome State Fault Refusal :=
  operate (.adcsample channel) (stepsAdcsample channel s) s

end Sys2Proof.Machine
end

