-- ==== Sys2Proof/Machine/Registry.lean ====
section
/-! DEFINITION. Slave registry operations (43_registry.md R93, R96, R97). -/

namespace Sys2Proof.Machine

/-- R96: a miss is the result 255, not an error. -/
def stepsLkmus (id : Byte) (s : State) : List Micro := [.result (lookupResult (s.lookupMuscle id)) 0]

def execLkmus (id : Byte) (s : State) : Host.Outcome State Fault Refusal :=
  operate (.lkmus id) (stepsLkmus id s) s

/-- R97. -/
def stepsLkslv (id : Byte) (s : State) : List Micro := [.result (lookupResult (s.lookupSlave id)) 0]

def execLkslv (id : Byte) (s : State) : Host.Outcome State Fault Refusal :=
  operate (.lkslv id) (stepsLkslv id s) s

end Sys2Proof.Machine
end

