-- ==== Sys2Proof/Machine/Dispatch.lean ====
section
/-! DEFINITION. The meaning of every operation, one arm per constructor of `Instr`. -/

namespace Sys2Proof.Machine

def exec (i : Instr) (s : State) : Host.Outcome State Fault Refusal :=
  match i with
  | .nop => Sys2Proof.Machine.execNop s
  | .srst => Sys2Proof.Machine.execSrst s
  | .u16fb low high => Sys2Proof.Machine.execU16fb low high s
  | .bfu16 v => Sys2Proof.Machine.execBfu16 v s
  | .u10to16 x => Sys2Proof.Machine.execU10to16 x s
  | .u16to10 x => Sys2Proof.Machine.execU16to10 x s
  | .u10to12 x => Sys2Proof.Machine.execU10to12 x s
  | .u12to10 x => Sys2Proof.Machine.execU12to10 x s
  | .u12to16 x => Sys2Proof.Machine.execU12to16 x s
  | .u16to12 x => Sys2Proof.Machine.execU16to12 x s
  | .clamp12 v => Sys2Proof.Machine.execClamp12 v s
  | .adc2v x => Sys2Proof.Machine.execAdc2v x s
  | .dacwr v => Sys2Proof.Machine.execDacwr v s
  | .muxsel channel => Sys2Proof.Machine.execMuxsel channel s
  | .adcsample channel => Sys2Proof.Machine.execAdcsample channel s
  | .lkmus id => Sys2Proof.Machine.execLkmus id s
  | .lkslv id => Sys2Proof.Machine.execLkslv id s
  | .beginBracket index => Sys2Proof.Machine.execBegin index s
  | .endBracket => Sys2Proof.Machine.execEnd s
  | .xfer8 out => Sys2Proof.Machine.execXfer8 out s
  | .xfer16 out => Sys2Proof.Machine.execXfer16 out s
  | .xfern n => Sys2Proof.Machine.execXfern n s
  | .swr8 slave out => Sys2Proof.Machine.execSwr8 slave out s
  | .srd8 slave => Sys2Proof.Machine.execSrd8 slave s
  | .srw8 slave out => Sys2Proof.Machine.execSrw8 slave out s
  | .swr16 slave out => Sys2Proof.Machine.execSwr16 slave out s
  | .srd16 slave => Sys2Proof.Machine.execSrd16 slave s
  | .srw16 slave out => Sys2Proof.Machine.execSrw16 slave out s
  | .swrn slave n => Sys2Proof.Machine.execSwrn slave n s
  | .srdn slave n => Sys2Proof.Machine.execSrdn slave n s
  | .srwn slave n => Sys2Proof.Machine.execSrwn slave n s
  | .txn slave v => Sys2Proof.Machine.execTxn slave v s
  | .swap => Sys2Proof.Machine.execSwap s
  | .mirror => Sys2Proof.Machine.execMirror s
  | .sync => Sys2Proof.Machine.execSync s
  | .rdbatch => Sys2Proof.Machine.execRdbatch s
  | .wrbatch => Sys2Proof.Machine.execWrbatch s
  | .cksumtx => Sys2Proof.Machine.execCksumtx s
  | .clrbatch selector => Sys2Proof.Machine.execClrbatch selector s
  | .putrec id v => Sys2Proof.Machine.execPutrec id v s

end Sys2Proof.Machine
end

