-- ==== Sys2Proof/Decode.lean ====
section
/-! DEFINITION. The operation word (30_encoding.md R60 to R63): decoding, total on any word and on any
bytes, and the encoder written from the same table. -/

namespace Sys2Proof

/-- Why a word or a run of bytes is no operation. -/
inductive Reject where
  /-- `OP` is not in the table of R62 (R63). Safe: the machine records `E_ILLEGAL`. -/
  | illegal (op : Byte)
  /-- Not four bytes. Safe: an operation word is 32 bits (R60). -/
  | notAWord
  deriving DecidableEq, Repr

/-- `OP`, bits 31:24. -/
def fieldOp (w : Word) : Byte := w.extractLsb' 24 8

/-- `A`, bits 23:16. -/
def fieldA (w : Word) : Byte := w.extractLsb' 16 8

/-- `B`, bits 15:0. -/
def fieldB (w : Word) : Half := w.extractLsb' 0 16

/-- `B[7:0]`. -/
def fieldBLow (w : Word) : Byte := w.extractLsb' 0 8

/-- `B[3:0]`, an unsigned count. -/
def fieldCount (w : Word) : Nat := (w.extractLsb' 0 4).toNat

/-- The operation of an opcode, with the operand bits its row names (R61, R62). -/
def decodeAs (op : Nat) (w : Word) : Except Reject Instr :=
  match op with
  | 0x00 => .ok .nop
  | 0x01 => .ok .srst
  | 0x10 => .ok (.u16fb (fieldA w) (fieldBLow w))
  | 0x11 => .ok (.bfu16 (fieldB w))
  | 0x12 => .ok (.u10to16 (fieldB w))
  | 0x13 => .ok (.u16to10 (fieldB w))
  | 0x14 => .ok (.u10to12 (fieldB w))
  | 0x15 => .ok (.u12to10 (fieldB w))
  | 0x16 => .ok (.u12to16 (fieldB w))
  | 0x17 => .ok (.u16to12 (fieldB w))
  | 0x18 => .ok (.clamp12 (fieldB w))
  | 0x19 => .ok (.adc2v (fieldB w))
  | 0x1A => .ok (.dacwr (fieldB w))
  | 0x20 => .ok (.muxsel (fieldA w).toNat)
  | 0x21 => .ok (.adcsample (fieldA w).toNat)
  | 0x28 => .ok (.lkmus (fieldA w))
  | 0x29 => .ok (.lkslv (fieldA w))
  | 0x30 => .ok (.beginBracket (fieldA w).toNat)
  | 0x31 => .ok .endBracket
  | 0x32 => .ok (.xfer8 (fieldA w))
  | 0x33 => .ok (.xfer16 (fieldB w))
  | 0x34 => .ok (.xfern (fieldCount w))
  | 0x38 => .ok (.swr8 (fieldA w) (fieldBLow w))
  | 0x39 => .ok (.srd8 (fieldA w))
  | 0x3A => .ok (.srw8 (fieldA w) (fieldBLow w))
  | 0x3B => .ok (.swr16 (fieldA w) (fieldB w))
  | 0x3C => .ok (.srd16 (fieldA w))
  | 0x3D => .ok (.srw16 (fieldA w) (fieldB w))
  | 0x3E => .ok (.swrn (fieldA w) (fieldCount w))
  | 0x3F => .ok (.srdn (fieldA w) (fieldCount w))
  | 0x40 => .ok (.srwn (fieldA w) (fieldCount w))
  | 0x48 => .ok (.txn (fieldA w) (fieldB w))
  | 0x50 => .ok .swap
  | 0x51 => .ok .mirror
  | 0x60 => .ok .sync
  | 0x61 => .ok .rdbatch
  | 0x62 => .ok .wrbatch
  | 0x63 => .ok .cksumtx
  | 0x64 => .ok (.clrbatch (fieldA w).toNat)
  | 0x65 => .ok (.putrec (fieldA w) (fieldB w))
  | _ => .error (.illegal (fieldOp w))

/-- The decoder selects the operation by `OP` alone (R62). -/
def decode (w : Word) : Except Reject Instr := decodeAs (fieldOp w).toNat w

/-- A word from its four bytes, the lowest address first (20_memory.md R43). -/
def wordOfBytes (b0 b1 b2 b3 : Byte) : Word := b3 ++ b2 ++ b1 ++ b0

/-- The bytes of a word, the lowest address first (20_memory.md R43). -/
def bytesOfWord (w : Word) : List Byte :=
  [w.extractLsb' 0 8, w.extractLsb' 8 8, w.extractLsb' 16 8, w.extractLsb' 24 8]

/-- Decoding a run of bytes: the first operation word and the bytes after it. -/
def decodeBytes : List Byte → Except Reject (Instr × List Byte)
  | b0 :: b1 :: b2 :: b3 :: rest =>
    match decode (wordOfBytes b0 b1 b2 b3) with
    | .ok i => .ok (i, rest)
    | .error r => .error r
  | _ => .error .notAWord

/-- An instruction read from a table word: bit 0 is the least significant bit of the word. -/
def decodeTableWord (nbits w : Nat) : Option Instr :=
  match decodeBytes (bytesOfWord (BitVec.ofNat 32 (w % 2 ^ nbits))) with
  | .ok (i, _) => some i
  | .error _ => none

/-- `{OP, A, B}` (R60). -/
def opWord (op : Byte) (a : Byte) (b : Half) : Word := op ++ a ++ b

/-- The operation word of an instruction, an unused operand bit 0 (30_encoding.md R73: "an absent
operand is 0"). -/
def encode : Instr → Word
  | .nop => opWord 0x00 0 0
  | .srst => opWord 0x01 0 0
  | .u16fb p q => opWord 0x10 p (q.setWidth 16)
  | .bfu16 p => opWord 0x11 0 p
  | .u10to16 p => opWord 0x12 0 p
  | .u16to10 p => opWord 0x13 0 p
  | .u10to12 p => opWord 0x14 0 p
  | .u12to10 p => opWord 0x15 0 p
  | .u12to16 p => opWord 0x16 0 p
  | .u16to12 p => opWord 0x17 0 p
  | .clamp12 p => opWord 0x18 0 p
  | .adc2v p => opWord 0x19 0 p
  | .dacwr p => opWord 0x1A 0 p
  | .muxsel p => opWord 0x20 (BitVec.ofNat 8 p) 0
  | .adcsample p => opWord 0x21 (BitVec.ofNat 8 p) 0
  | .lkmus p => opWord 0x28 p 0
  | .lkslv p => opWord 0x29 p 0
  | .beginBracket p => opWord 0x30 (BitVec.ofNat 8 p) 0
  | .endBracket => opWord 0x31 0 0
  | .xfer8 p => opWord 0x32 p 0
  | .xfer16 p => opWord 0x33 0 p
  | .xfern p => opWord 0x34 0 (BitVec.ofNat 16 p)
  | .swr8 p q => opWord 0x38 p (q.setWidth 16)
  | .srd8 p => opWord 0x39 p 0
  | .srw8 p q => opWord 0x3A p (q.setWidth 16)
  | .swr16 p q => opWord 0x3B p q
  | .srd16 p => opWord 0x3C p 0
  | .srw16 p q => opWord 0x3D p q
  | .swrn p q => opWord 0x3E p (BitVec.ofNat 16 q)
  | .srdn p q => opWord 0x3F p (BitVec.ofNat 16 q)
  | .srwn p q => opWord 0x40 p (BitVec.ofNat 16 q)
  | .txn p q => opWord 0x48 p q
  | .swap => opWord 0x50 0 0
  | .mirror => opWord 0x51 0 0
  | .sync => opWord 0x60 0 0
  | .rdbatch => opWord 0x61 0 0
  | .wrbatch => opWord 0x62 0 0
  | .cksumtx => opWord 0x63 0 0
  | .clrbatch p => opWord 0x64 (BitVec.ofNat 8 p) 0
  | .putrec p q => opWord 0x65 p q

/-- The bits of an operation word that its row uses: `OP`, and the operand bits named there (R62); R61
gives the others no effect. -/
def usedBits : Instr → Word
  | .nop => 0xFF000000
  | .srst => 0xFF000000
  | .u16fb _ _ => 0xFFFF00FF
  | .bfu16 _ => 0xFF00FFFF
  | .u10to16 _ => 0xFF00FFFF
  | .u16to10 _ => 0xFF00FFFF
  | .u10to12 _ => 0xFF00FFFF
  | .u12to10 _ => 0xFF00FFFF
  | .u12to16 _ => 0xFF00FFFF
  | .u16to12 _ => 0xFF00FFFF
  | .clamp12 _ => 0xFF00FFFF
  | .adc2v _ => 0xFF00FFFF
  | .dacwr _ => 0xFF00FFFF
  | .muxsel _ => 0xFFFF0000
  | .adcsample _ => 0xFFFF0000
  | .lkmus _ => 0xFFFF0000
  | .lkslv _ => 0xFFFF0000
  | .beginBracket _ => 0xFFFF0000
  | .endBracket => 0xFF000000
  | .xfer8 _ => 0xFFFF0000
  | .xfer16 _ => 0xFF00FFFF
  | .xfern _ => 0xFF00000F
  | .swr8 _ _ => 0xFFFF00FF
  | .srd8 _ => 0xFFFF0000
  | .srw8 _ _ => 0xFFFF00FF
  | .swr16 _ _ => 0xFFFFFFFF
  | .srd16 _ => 0xFFFF0000
  | .srw16 _ _ => 0xFFFFFFFF
  | .swrn _ _ => 0xFFFF000F
  | .srdn _ _ => 0xFFFF000F
  | .srwn _ _ => 0xFFFF000F
  | .txn _ _ => 0xFFFFFFFF
  | .swap => 0xFF000000
  | .mirror => 0xFF000000
  | .sync => 0xFF000000
  | .rdbatch => 0xFF000000
  | .wrbatch => 0xFF000000
  | .cksumtx => 0xFF000000
  | .clrbatch _ => 0xFFFF0000
  | .putrec _ _ => 0xFFFFFFFF

end Sys2Proof
end

