-- ==== Sys2Proof/Machine/Program.lean ====
section
/-! DEFINITION. The steps of every operation (the pseudocode of its rule), and a bare `CMD` write
(60_exceptions.md R148), which accepts an operation without waiting for it. -/

namespace Sys2Proof.Machine

/-- The steps of an operation at its acceptance. `SRST` has none: it runs at once (R148). -/
def stepsOf (i : Instr) (s : State) : List Micro :=
  match i with
  | .nop => stepsNop
  | .srst => []
  | .u16fb low high => stepsU16fb low high
  | .bfu16 v => stepsBfu16 v
  | .u10to16 x => stepsU10to16 x
  | .u16to10 x => stepsU16to10 x
  | .u10to12 x => stepsU10to12 x
  | .u12to10 x => stepsU12to10 x
  | .u12to16 x => stepsU12to16 x
  | .u16to12 x => stepsU16to12 x
  | .clamp12 v => stepsClamp12 v
  | .adc2v x => stepsAdc2v x s
  | .dacwr v => stepsDacwr v
  | .muxsel channel => stepsMuxsel channel s
  | .adcsample channel => stepsAdcsample channel s
  | .lkmus id => stepsLkmus id s
  | .lkslv id => stepsLkslv id s
  | .beginBracket index => stepsBegin index s
  | .endBracket => stepsEnd s
  | .xfer8 out => stepsXfer8 out s
  | .xfer16 out => stepsXfer16 out s
  | .xfern n => stepsXfern n s
  | .swr8 slave out => stepsSwr8 slave out s
  | .srd8 slave => stepsSrd8 slave s
  | .srw8 slave out => stepsSrw8 slave out s
  | .swr16 slave out => stepsSwr16 slave out s
  | .srd16 slave => stepsSrd16 slave s
  | .srw16 slave out => stepsSrw16 slave out s
  | .swrn slave n => stepsSwrn slave n s
  | .srdn slave n => stepsSrdn slave n s
  | .srwn slave n => stepsSrwn slave n s
  | .txn slave v => stepsTxn slave v s
  | .swap => stepsSwap s
  | .mirror => stepsMirror s
  | .sync => stepsSync
  | .rdbatch => stepsRdbatch
  | .wrbatch => stepsWrbatch s
  | .cksumtx => stepsCksumtx s
  | .clrbatch selector => stepsClrbatch selector
  | .putrec id v => stepsPutrec id v s

/-- An operation is issued by a `CMD` write, without `WAIT` (R148). -/
def issue (i : Instr) (s : State) : State :=
  match i with
  | .srst => s.softReset
  | i => issueOp i (stepsOf i s) s

/-- `OnCmdWrite(w)` (R148). -/
def onCmdWrite (w : Word) (s : State) : State :=
  match decode w with
  | .ok i => issue i s
  | .error _ => issueIllegal (fieldOp w) s

end Sys2Proof.Machine
end

