-- ==== Sys2Proof/Machine/Port.lean ====
section
/-! DEFINITION. The register port (20_memory.md R42 to R49; 10_state.md section 2) and the moves of the
other agents (00_scope.md R7). -/

namespace Sys2Proof.Machine

/-- The words of the register space that are mapped (R42): the registers, and the words that cover a
byte of a window. -/
def mappedWord (off : Nat) : Bool :=
  decide (off ≤ 0x028) || inRange txBufBase 8 off || inRange rxBufBase 192 off ||
    inRange cmdBatchBase batchBytes off || inRange sensBatchBase batchBytes off ||
    inRange registryBase 96 off || inRange slaveRecBase 192 off

/-- The read-only registers and windows (R42): `RESULT`, `DAC`, `CFG`, `ERRINFO`, `RXBUF`, `SLAVEREC`.
DESIGN CHOICE (log 27): the rows of `RXBUF` and `SLAVEREC` of a slave index at or above `N_SLAVES` count
among them, so that a write there records `E_ADDR` as R45 says of the window, where R42 says of such a
row that writes are ignored without error. `STATUS` and `ERR` are not among them (log 29). -/
def readOnlyWord (off : Nat) : Bool :=
  decide (off = 0x010) || decide (off = 0x020) || decide (off = 0x024) || decide (off = 0x028) ||
    inRange rxBufBase 192 off || inRange slaveRecBase 192 off

/-- An access that R45 does not refuse for its width, alignment or offset. -/
def goodAccess (off : BitVec 12) (width : Nat) : Bool :=
  decide (width = 4) && decide (off.toNat % 4 = 0) && mappedWord off.toNat

/-- The value of the word at an offset (R42): a register, `CMD` reading 0, or a word of a window. -/
def State.registerWord (s : State) (off : Nat) : Word :=
  match off with
  | 0x000 => s.ctrl.word
  | 0x004 => s.statusWord
  | 0x008 => s.errWord
  | 0x00C => 0
  | 0x010 => s.res1 ++ s.res0
  | 0x014 => 0#16 ++ s.sensorId ++ s.commandId
  | 0x018 => s.unkCnt.setWidth 32
  | 0x01C => s.syncLim.setWidth 32
  | 0x020 => s.dac.setWidth 32
  | 0x024 => s.cfgWord
  | 0x028 => s.errInfo.setWidth 32
  | _ => s.readWord off

/-- The operations whose rule writes `RXBUF` (30_encoding.md R62). -/
def writesRxBuf : Instr → Bool
  | .xfern _ => true
  | .srd8 _ => true
  | .srw8 _ _ => true
  | .srd16 _ => true
  | .srw16 _ _ => true
  | .srdn _ _ => true
  | .srwn _ _ => true
  | .txn _ _ => true
  | .swap => true
  | _ => false

/-- The operations whose rule writes `SLAVEREC`. -/
def writesSlaveRec : Instr → Bool
  | .txn _ _ => true
  | .swap => true
  | _ => false

/-- The operations whose rule writes `CMDBATCH`. -/
def writesCmdBatch : Instr → Bool
  | .rdbatch => true
  | .clrbatch _ => true
  | _ => false

/-- The operations whose rule writes `SENSBATCH`. -/
def writesSensBatch : Instr → Bool
  | .swap => true
  | .clrbatch _ => true
  | .putrec _ _ => true
  | _ => false

/-- A read of this offset while `i` runs returns `Draw(u32)` (R47; log 15): `RESULT`, `UNKCNT`, `DAC`, or
a window the operation's rule writes. DESIGN CHOICE (log 28): so does a word of such a window that holds
bytes which R42 says read as 0, past the window's end (0x370, 0x470) or in a row of `RXBUF` or `SLAVEREC` of
a slave index at or above `N_SLAVES` (10_state.md R28). -/
def freeWhile (i : Instr) (off : Nat) : Bool :=
  decide (off = 0x010) || decide (off = 0x018) || decide (off = 0x020) ||
    (inRange rxBufBase 192 off && writesRxBuf i) ||
    (inRange slaveRecBase 192 off && writesSlaveRec i) ||
    (inRange cmdBatchBase 116 off && writesCmdBatch i) ||
    (inRange sensBatchBase 116 off && writesSensBatch i)

/-- A read of this offset returns a draw now. -/
def State.freeRead (s : State) (off : Nat) : Bool :=
  match s.seq with
  | .idle => false
  | .running r => freeWhile r.op off

/-- A controller read (R45 to R47): the port returns the word, a draw, or 0 when refused. -/
def State.portRead (off : BitVec 12) (width : Nat) (s : State) : State :=
  if goodAccess off width then
    if s.freeRead off.toNat then { s with readData := s.draws.head, draws := s.draws.tail }
    else { s with readData := s.registerWord off.toNat }
  else { s.record .addr (off.setWidth 16) with readData := 0 }

/-- A write of a registry entry's word (43_registry.md R95): 255 is refused as slave_id or muscle_id, the
reserved byte is dropped. -/
def State.writeRegistry (off : Nat) (v : Word) (s : State) : State :=
  if (off - registryBase) / 4 < s.params.nSlaves ∧ (byteOf v 0 = 255 ∨ byteOf v 1 = 255) then
    s.record .badArg (toHalf off)
  else s.writeWord off v

/-- A controller write to an idle block, other than to `STATUS`, `ERR` and `CMD` (10_state.md). -/
def State.writeIdle (off : Nat) (v : Word) (s : State) : State :=
  if off = 0x000 then { s with ctrl := Ctrl.ofWord v }
  else if off = 0x014 then { s with commandId := byteOf v 0, sensorId := byteOf v 1 }
  else if off = 0x018 then { s with unkCnt := 0 }
  else if off = 0x01C then { s with syncLim := v.extractLsb' 0 16 }
  else if inRange registryBase 96 off then s.writeRegistry off v
  else s.writeWord off v

/-- A controller write (R45 to R47; 60_exceptions.md R148): `E_ADDR` is checked before `E_BUSY`;
`STATUS`, `ERR` and `CMD` are written whatever `BUSY` is. DESIGN CHOICE (log 29): a write to `STATUS` or
`ERR` is never a refused access; its W1C bits act, and the bits R42 marks RO are ignored without error,
also where the write sets no W1C bit. DESIGN CHOICE (log 30): while an operation runs, a write to the
`REGISTRY` entry of a slave index at or above `N_SLAVES` records `E_BUSY` as R47 says of every accepted
write, where R42 says of such a row that writes are ignored without error. -/
def State.portWrite (off : BitVec 12) (width : Nat) (v : Word) (s : State) : State :=
  if goodAccess off width && !readOnlyWord off.toNat then
    if off = 0x00C then onCmdWrite v s
    else if off = 0x004 then (if v.getLsbD 1 then { s with done := false } else s)
    else if off = 0x008 then s.clearErrors v
    else if s.busy then s.record .busy (off.setWidth 16)
    else s.writeIdle off.toNat v
  else s.record .addr (off.setWidth 16)

/-- A wait for a received byte times out, if it is one and `CTRL.RX_TMO_EN = 1` (R57); otherwise nothing
happens (log 20). -/
def State.timeOut (s : State) : State :=
  match s.seq with
  | .idle => s
  | .running r => if s.waiting && s.ctrl.rxTmoEn then s.raiseError .timeout 0 r.loc else s

/-- A move of another agent, other than the controller's operation line. -/
def perform (m : Move) (s : State) : State :=
  match m with
  | .issue w => onCmdWrite w s
  | .write off width v => s.portWrite off width v
  | .read off width => s.portRead off width
  | .wait => drain s
  | .tick => tick s
  | .hostSend b => s.hostSend b
  | .hostTake => s.hostTake
  | .timeout => s.timeOut
  | .elapse t => { s with now := s.now + t }
  | .powerOn => s.powerOn

end Sys2Proof.Machine
end

