-- ==== Sys2Proof/Machine/Step.lean ====
section
/-! DEFINITION. One step of the machine: the next move of an agent outside the sequencer, or, with none
listed, one step of the sequencer (00_scope.md R7; 60_exceptions.md R147). -/

namespace Sys2Proof.Machine

/-- The state with its first move taken. -/
def State.dropMove (s : State) : State := { s with moves := s.moves.tail }

def step (s : State) : Host.Outcome State Fault Refusal :=
  match s.moves with
  | [] => .next (tick s)
  | .issue w :: _ =>
    match decode w with
    | .ok i => exec i s.dropMove
    | .error _ => .next (issueIllegal (fieldOp w) s.dropMove)
  | m :: _ => .next (perform m s.dropMove)

/-- The machine whose next move is the controller's operation line with this word (log 1): the block
fetches nothing (20_memory.md R55), so this is where its next instruction comes from. -/
def State.withFetchWord (s : State) (nbits w : Nat) : State :=
  { s with moves := .issue (BitVec.ofNat 32 (w % 2 ^ nbits)) :: s.moves }

end Sys2Proof.Machine
end

