-- ==== Sys2Proof/Safety.lean ====
section
/-! DEFINITION. What a safe state of the block is (`Inv`), and the terms the statements use: the refusal
of an operation, the frame of a step, the bus traffic of a bracket, the targets of a slave operand. -/

namespace Sys2Proof.Safety

open Sys2Proof.Machine

/-! ## The bracket discipline (44_spi_transport.md R98 to R102) -/

/-- Where the chip-select and the mux stand between two steps of an operation. -/
inductive Phase where
  /-- No bracket; nothing is known of the mux. -/
  | free
  /-- No bracket; `SetMux` was just done. -/
  | aimed (channel : BitVec 6)
  /-- No bracket; the mux is on the channel and settled. -/
  | ready (channel : BitVec 6)
  /-- A bracket is open, the chip-select low. -/
  | low
  /-- `End()` has raised the chip-select and not released it. -/
  | high
  deriving DecidableEq, Repr

/-- The phase after a step of an operation with `n` slaves, or none where the step breaks the
discipline: the mux never moves in a bracket, the chip-select goes low for a settled slave channel only,
no byte is exchanged outside a bracket, an operation never waits, raises or ends between the two edges
of `End()`. -/
def Phase.after (n : Nat) (p : Phase) (m : Micro) : Option Phase :=
  match m with
  | .setMux ch => if p = .low ∨ p = .high then none else some (.aimed ch)
  | .settle =>
    match p with
    | .aimed ch => some (.ready ch)
    | _ => none
  | .assertCs i => if p = .ready (slaveChannel i) ∧ i < n then some .low else none
  | .raiseCs => if p = .low then some .high else none
  | .releaseCs => if p = .high then some .free else none
  | .exchange _ _ => if p = .low then some .low else none
  | .startSearch => if p = .high then none else some p
  | .searchByte => if p = .high then none else some p
  | .takeCount => if p = .high then none else some p
  | .takeInto _ => if p = .high then none else some p
  | .takeTrailer _ => if p = .high then none else some p
  | .raise _ _ => if p = .high then none else some p
  | .keepBatch _ => if p = .high then none else some p
  | .sampleAdc => some p
  | .poke _ _ => some p
  | .keepReplies _ _ => some p
  | .updateRecord _ _ _ _ => some p
  | .append _ _ => some p
  | .appendReply _ => some p
  | .countUnknown => some p
  | .transmit _ => some p
  | .result _ _ => some p
  | .resultReply8 => some p
  | .resultReply16 => some p
  | .resultTxn _ => some p
  | .resultSwap => some p
  | .resultSearch => some p
  | .setDac _ => some p
  | .flag _ _ => some p

/-- An offset in `RXBUF` or a batch: what an operation may store to, `SLAVEREC` apart. -/
def inBuffers (off : Nat) : Bool := decide (rxBufBase ≤ off) && decide (off < registryBase)

/-- The step stores to an existing row of `RXBUF` or to a batch, never to `TXBUF` or the registry
(10_state.md R27 to R31). -/
def storesSafely (n : Nat) : Micro → Bool
  | .exchange _ (.rxBuf i k) => decide (i < n) && decide (k < 8)
  | .keepReplies i len => decide (i < n) && decide (len ≤ 8)
  | .poke off _ => inBuffers off
  | .takeInto off => inBuffers off
  | _ => true

/-- The steps that are left keep the discipline and end outside the two edges of `End()`. -/
def safeSteps (n : Nat) (p : Phase) : List Micro → Bool
  | [] => decide (p ≠ .high)
  | m :: rest =>
    storesSafely n m &&
      match p.after n m with
      | none => false
      | some q => safeSteps n q rest

/-- Where the slaves keep up (70_reset_and_hazards.md R165), every slave has handled its last byte by a
time. -/
def HandledBy (s : State) (t : Nat) : Prop :=
  s.params.slavesKeepUp = true → ∀ p ∈ s.peers, p.readyAt ≤ t

/-- What each phase says of the pins, the bracket, the mux and the slaves: a byte exchange is never
early. -/
def Phase.holds (p : Phase) (s : State) : Prop :=
  match p with
  | .free => s.cs = .released ∧ s.bracket = .closed
  | .aimed ch =>
    s.cs = .released ∧ s.bracket = .closed ∧ s.muxCh = ch ∧ s.settledAt ≤ s.now + s.params.tSettle
  | .ready ch =>
    s.cs = .released ∧ s.bracket = .closed ∧ s.muxCh = ch ∧ s.settledAt ≤ s.now ∧ HandledBy s s.now
  | .low =>
    (∃ i, s.bracket = .opened i ∧ i < s.params.nSlaves ∧ s.selects i = true) ∧ HandledBy s s.byteStart
  | .high => ∃ i, s.bracket = .opened i ∧ i < s.params.nSlaves ∧ s.cs = .high

/-- The pins agree with the bracket, and the steps of a running operation keep them so: with the
sequencer idle, the chip-select is released and no bracket is open, or it is low and exactly the open
bracket's slave is selected (R98, R101, R102). -/
def PinsOk (s : State) : Prop :=
  match s.seq with
  | .idle => Phase.free.holds s ∨ Phase.low.holds s
  | .running r => ∃ p : Phase, p.holds s ∧ safeSteps s.params.nSlaves p r.todo = true

/-- Whether a bracket is open after one more event: brackets do not nest, and bytes come in brackets
only. -/
def busStep (isOpen : Bool) (e : BusEvent) : Option Bool :=
  match e with
  | .asserted _ => if isOpen then none else some true
  | .byte _ _ => if isOpen then some true else none
  | .released => if isOpen then some false else none

/-- Whether a bracket is open after the events of the bus, none where they break the discipline. -/
def busOpen (events : List BusEvent) : Option Bool := events.foldlM busStep false

/-! ## The invariant -/

/-- The error registers (60_exceptions.md R145, R152): with no `KIND` bit set, `LAST_CAUSE` and `ERRINFO`
are 0; with one set, `LAST_CAUSE` is an error code. -/
def ErrorsOk (s : State) : Prop :=
  (s.errKind = 0 → s.lastCause = 0 ∧ s.errInfo = 0) ∧
    (s.errKind ≠ 0 → 1 ≤ s.lastCause.toNat ∧ s.lastCause.toNat ≤ 12)

/-- No registry entry holds 255 as slave_id or muscle_id (30_encoding.md R65, 43_registry.md R95). -/
def RegistryOk (s : State) : Prop :=
  ∀ i < s.params.nSlaves, s.slaveIdOf i ≠ 255 ∧ s.muscleIdOf i ≠ 255

/-- A safe state of the block. -/
structure Inv (s : State) : Prop where
  params : s.params.wf = true
  memory : Memory.wf s.params s.mem = true
  peers : s.peers.length = s.params.nSlaves
  errors : ErrorsOk s
  registry : RegistryOk s
  pins : PinsOk s
  bus : busOpen s.bus = some s.isOpen
  byteEnd : ∀ t, s.lastByteEnd = some t → t ≤ s.now
  handled : HandledBy s (s.now + s.params.tSlaveIsr)

/-- A step of `RDBATCH` after its first: none stores the count byte without ending the operation. -/
def readStep : Micro → Bool
  | .startSearch => true
  | .searchByte => true
  | .takeCount => true
  | .takeInto off => decide (off ≠ 0x300)
  | .takeTrailer _ => true
  | .keepBatch _ => true
  | _ => false

/-- While `RDBATCH` runs, the command batch is empty (47_framing.md R135). -/
def ReadBatchCleared (s : State) : Prop :=
  ∀ r, s.seq = .running r → r.op = .rdbatch → r.todo.all readStep = true ∧ s.readByte 0x300 = 0

/-! ## Terms of the statements: codes and errors -/

/-- The opcodes that 30_encoding.md R63 lists as illegal. -/
def IllegalOp (op : Nat) : Prop :=
  (0x02 ≤ op ∧ op ≤ 0x0F) ∨ (0x1B ≤ op ∧ op ≤ 0x1F) ∨ (0x22 ≤ op ∧ op ≤ 0x27) ∨
    (0x2A ≤ op ∧ op ≤ 0x2F) ∨ (0x35 ≤ op ∧ op ≤ 0x37) ∨ (0x41 ≤ op ∧ op ≤ 0x47) ∨
    (0x49 ≤ op ∧ op ≤ 0x4F) ∨ (0x52 ≤ op ∧ op ≤ 0x5F) ∨ (0x66 ≤ op ∧ op ≤ 0xFF)

/-- The sequencer is idle: `STATUS.BUSY = 0` (10_state.md R34). -/
def Idle (s : State) : Prop := s.seq = .idle

/-- An operation ends at once by `raise E_k(info)`: nothing changes but the error registers and `DONE`
(60_exceptions.md R145, R149). -/
def refusal (s : State) (k : ErrorKind) (info : Nat) : State :=
  { s.record k (BitVec.ofNat 16 info) with done := true }

/-- An operation ends with `RESULT` written. -/
def ended (s : State) (r0 r1 : Nat) : State :=
  { s with res0 := BitVec.ofNat 16 r0, res1 := BitVec.ofNat 16 r1, done := true }

/-- `flag E_RANGE(x)` where `x` is above the full scale (41_codec.md R75). -/
def flagRange (s : State) (x : Half) (full : Nat) : State :=
  if full < x.toNat then s.record .range x else s

/-! ## Terms of the statements: numbers -/

/-- `min(rnd(x * D / S), D)` with the exact quotient and `rnd(q) = floor(q + 1/2)` (41_codec.md R75,
00_scope.md R10). -/
def scaled (x full target : Nat) : Nat :=
  min (Nat.floor ((x : ℚ) * (target : ℚ) / (full : ℚ) + 1 / 2)) target

/-- The value of a finite binary32 word with sign 0 (IEEE 754; log 14). -/
def binary32Value (w : Word) : ℚ :=
  let e : Nat := w.toNat / 2 ^ 23
  let m : Nat := w.toNat % 2 ^ 23
  if e = 0 then (m : ℚ) * (2 : ℚ) ^ (-149 : ℤ)
  else ((2 : ℚ) ^ 23 + (m : ℚ)) * (2 : ℚ) ^ ((e : ℤ) - 150)

/-- The word is the binary32 nearest to a non-negative rational, the even one of two equally near. -/
def NearestEven (w : Word) (v : ℚ) : Prop :=
  w.toNat < 0x7F800000 ∧ ∀ u : Word, u.toNat < 0x7F800000 →
    |binary32Value w - v| ≤ |binary32Value u - v| ∧
      (|binary32Value w - v| = |binary32Value u - v| → u = w ∨ w.toNat % 2 = 0)

/-! ## Terms of the statements: the SPI side -/

/-- The targets of a slave operand (44_spi_transport.md R103): every index in registry order for
`ALL` (255), else the lowest index whose `REGISTRY` row starts with that slave_id. -/
def Targets (s : State) (a : Byte) (targets : List Nat) : Prop :=
  (a = 255 ∧ targets = List.range s.params.nSlaves) ∨
    (a ≠ 255 ∧ ∃ i < s.params.nSlaves, s.readByte (0x500 + 4 * i) = a ∧
      (∀ j < i, s.readByte (0x500 + 4 * j) ≠ a) ∧ targets = [i])

/-- The slave operand names no slave (R103). -/
def Unknown (s : State) (a : Byte) : Prop :=
  a ≠ 255 ∧ ∀ i < s.params.nSlaves, s.readByte (0x500 + 4 * i) ≠ a

/-- The low and the high byte of a 16-bit value (00_scope.md R9). -/
def lowByte (v : Half) : Byte := BitVec.ofNat 8 (v.toNat % 256)
def highByte (v : Half) : Byte := BitVec.ofNat 8 (v.toNat / 256)

/-- `r[k] + 256 * r[k+1]` (44_spi_transport.md R120). -/
def wordAt (r : List Byte) (k : Nat) : Nat := (r.getD k 0).toNat + 256 * (r.getD (k + 1) 0).toNat

/-- A 16-bit value of a window, low byte at the lower offset (20_memory.md R43). -/
def halfAt (s : State) (off : Nat) : Nat := (s.readByte off).toNat + 256 * (s.readByte (off + 1)).toNat

/-- The bytes of `TXBUF` from the first on (10_state.md R27). -/
def txBytes (s : State) (n : Nat) : List Byte := (List.range n).map fun k => s.readByte (0x100 + k)

/-- The events of one bracket on slave index `i`: the mux on channel `i + 37`, the bytes out and in, the
release (30_encoding.md R67, 44_spi_transport.md R101). -/
def bracketEvents (i : Nat) (out got : List Byte) : List BusEvent :=
  .asserted (BitVec.ofNat 6 (i + 37)) :: List.zipWith BusEvent.byte out got ++ [.released]

/-- The state after bytes exchanged one after another in an open bracket, and the reply to each
(44_spi_transport.md R100). -/
def exchanges (s : State) : List Byte → State × List Byte
  | [] => (s, [])
  | b :: rest =>
    let r := exchanges (s.exchange b) rest
    (r.1, s.replyByte b :: r.2)

/-- After `Begin(i)` (R101): the mux on channel `i + 37`, the settle time passed, the chip-select low. -/
def begun (s : State) (i : Nat) : State :=
  { s with
    muxL := BitVec.ofNat 3 ((i + 37) % 8)
    muxU := BitVec.ofNat 3 ((i + 37) / 8)
    settledAt := s.now + s.params.tSettle
    now := s.now + s.params.tSettle
    cs := .low
    bracket := .opened i
    lastByteEnd := none
    bus := s.bus ++ [.asserted (BitVec.ofNat 6 (i + 37))] }

/-- After `End()` (R101). -/
def released (s : State) : State :=
  { s with cs := .released, bracket := .closed, bus := s.bus ++ [.released] }

/-- The state after one bracket on slave index `i` that sends `out`, and the slave's replies. -/
def bracketOn (s : State) (i : Nat) (out : List Byte) : State × List Byte :=
  let r := exchanges (begun s i) out
  (released r.1, r.2)

/-- The state after one bracket after another, each with its slave index and bytes, and the replies of
each: what the selected slaves answer (R98, R109; 46_slave_peer.md R127). -/
def bracketsOn (s : State) : List (Nat × List Byte) → State × List (List Byte)
  | [] => (s, [])
  | (i, out) :: rest =>
    let b := bracketOn s i out
    let r := bracketsOn b.1 rest
    (r.1, b.2 :: r.2)

/-- The SPI side of two states is the same: the pins, the bracket, the slave peers, the times, the draws
and the bus history. -/
structure SameSpi (u t : State) : Prop where
  params : t.params = u.params
  muxL : t.muxL = u.muxL
  muxU : t.muxU = u.muxU
  cs : t.cs = u.cs
  bracket : t.bracket = u.bracket
  lastByteEnd : t.lastByteEnd = u.lastByteEnd
  peers : t.peers = u.peers
  now : t.now = u.now
  settledAt : t.settledAt = u.settledAt
  draws : t.draws = u.draws
  bus : t.bus = u.bus

/-- Only the SPI side, the buffers, `RESULT`, `DONE` and time differ: what a transfer may change. -/
def TransferFrame (s t : State) : Prop :=
  t = { s with
    done := t.done
    res0 := t.res0
    res1 := t.res1
    muxL := t.muxL
    muxU := t.muxU
    cs := t.cs
    bracket := t.bracket
    lastByteEnd := t.lastByteEnd
    mem := t.mem
    peers := t.peers
    now := t.now
    settledAt := t.settledAt
    draws := t.draws
    bus := t.bus }

/-- The SPI side after one bracket on each target in order, `out` of a target sent in it: the replies and
the peers are what the selected slaves make of the bytes (`bracketsOn`), the bracket is closed, the mux on the last target, no other peer changed, and
the least time that takes (R98 to R101, R109, 46_slave_peer.md R126; 70_reset_and_hazards.md R171). -/
structure Brackets (s t : State) (targets : List Nat) (out : List (List Byte))
    (replies : List (List Byte)) : Prop where
  answers : replies = (bracketsOn s (targets.zip out)).2
  spi : SameSpi (bracketsOn s (targets.zip out)).1 t
  lengths : replies.map List.length = out.map List.length
  events : t.bus = s.bus ++
    (List.zipWith (fun i x => bracketEvents i x.1 x.2) targets (out.zip replies)).flatten
  closed : targets ≠ [] → t.cs = .released ∧ t.bracket = .closed
  untouched : targets = [] → t.cs = s.cs ∧ t.bracket = s.bracket ∧ t.muxL = s.muxL ∧
    t.muxU = s.muxU ∧ t.lastByteEnd = s.lastByteEnd ∧ t.now = s.now ∧ t.settledAt = s.settledAt ∧
    t.draws = s.draws
  mux : ∀ i, targets.getLast? = some i → t.muxU ++ t.muxL = BitVec.ofNat 6 (i + 37)
  others : ∀ j, j ∉ targets → t.peers[j]? = s.peers[j]?
  time : s.now + (out.map fun b => s.params.tSettle + (b.length - 1) * s.params.tIb).sum ≤ t.now

/-- `RXBUF` keeps the replies of each target, and every other byte is as before (10_state.md R28). -/
def KeepsReplies (s t : State) (targets : List Nat) (replies : List (List Byte)) : Prop :=
  (∀ (j i : Nat) (r : List Byte), targets[j]? = some i → replies[j]? = some r →
    ∀ k < r.length, t.readByte (0x200 + 8 * i + k) = r.getD k 0) ∧
  ∀ off, (∀ (j i : Nat) (r : List Byte), targets[j]? = some i → replies[j]? = some r →
    ∀ k < r.length, off ≠ 0x200 + 8 * i + k) → t.readByte off = s.readByte off

/-- The form of the bracketed operations (R109): refused in a bracket, for a bad length or for an unknown
slave, in that order, with nothing changed; else one bracket on each target sending `out`, the
replies kept in `RXBUF` or dropped, and `RESULT`. -/
def RunsBrackets (op : Instr) (a : Byte) (bad : Option Nat) (out : State → List Byte) (keep : Bool)
    (result : List Nat → List (List Byte) → Nat × Nat) : Prop :=
  ∀ s, Idle s →
    (s.bracket ≠ .closed → exec op s = .next (refusal s .nest a.toNat)) ∧
    (s.bracket = .closed →
      (∀ n, bad = some n → exec op s = .next (refusal s .badArg n)) ∧
      (bad = none →
        (Unknown s a → exec op s = .next (refusal s .unknownId a.toNat)) ∧
        ∀ targets, Targets s a targets → ∃ t replies,
          exec op s = .next t ∧ TransferFrame s t ∧ t.done = true ∧
          Brackets s t targets (targets.map fun _ => out s) replies ∧
          (if keep then KeepsReplies s t targets replies
            else ∀ off, t.readByte off = s.readByte off) ∧
          t.res0 = BitVec.ofNat 16 (result targets replies).1 ∧
          t.res1 = BitVec.ofNat 16 (result targets replies).2))

/-- The length check of the array tier (R109). -/
def badCount (n : Nat) : Option Nat := if 1 ≤ n ∧ n ≤ 8 then none else some n

/-- `RES0` is the number of slaves reached. -/
def countOf (targets : List Nat) (_ : List (List Byte)) : Nat × Nat := (targets.length, 0)

/-- `RES0` is the reply of one slave, low byte first, or the number of slaves reached for `ALL`, with one
slave in all too (log 13). -/
def replyOf (a : Byte) (targets : List Nat) (replies : List (List Byte)) : Nat × Nat :=
  if a = 255 then (targets.length, 0) else (wordAt (replies.headD []) 0, 0)

/-- `RES0` is the number of slaves reached, `RES1` the length. -/
def countAndLength (n : Nat) (targets : List Nat) (_ : List (List Byte)) : Nat × Nat :=
  (targets.length, n)

/-- The master bytes of a transaction (30_encoding.md R71). -/
def masterBytes (c d : Byte) (v : Half) : List Byte :=
  if d = 255 then [c, 255, lowByte v, highByte v, 0, 0, 0, 0] else [c, d, lowByte v, highByte v]

/-- `SLAVEREC[i]` after `TxnUpdate` with the replies `r` (44_spi_transport.md R120). -/
def RecordAfter (s t : State) (i : Nat) (c d : Byte) (v : Half) (r : List Byte) : Prop :=
  halfAt t (0x600 + 8 * i) =
    (if d = 1 ∨ d = 255 then wordAt r 2 else halfAt s (0x600 + 8 * i)) ∧
  halfAt t (0x602 + 8 * i) =
    (if d = 2 then wordAt r 2 else if d = 255 then wordAt r 4 else halfAt s (0x602 + 8 * i)) ∧
  halfAt t (0x604 + 8 * i) =
    (if d = 3 then wordAt r 2 else if d = 255 then wordAt r 6 else halfAt s (0x604 + 8 * i)) ∧
  halfAt t (0x606 + 8 * i) = (if c = 1 then v.toNat else halfAt s (0x606 + 8 * i))

/-- A command record of the batch whose muscle is in the registry: its id, its value, the slave index. -/
structure Hit where
  id : Byte
  value : Half
  index : Nat
  deriving DecidableEq, Repr

/-- The first `m` command records (10_state.md R29). -/
def commands (s : State) (m : Nat) : List (Byte × Half) :=
  (List.range m).map fun k => (s.readByte (0x301 + 3 * k), BitVec.ofNat 16 (halfAt s (0x302 + 3 * k)))

/-- The commands whose muscle is known, in batch order, and the ids of the others (45_fanout.md R122). -/
def hits (s : State) (m : Nat) : List Hit :=
  (commands s m).filterMap fun x => (s.lookupMuscle x.1).map fun i => ⟨x.1, x.2, i⟩
def misses (s : State) (m : Nat) : List Byte :=
  ((commands s m).filter fun x => (s.lookupMuscle x.1).isNone).map fun x => x.1

/-- The sensor batch and the buffers after a fan-out (45_fanout.md R121, R122): one record for each hit,
then zero records up to `total`; for the last hit of each slave, `RXBUF` and `SLAVEREC`. -/
structure Harvest (s t : State) (hit : List Hit) (replies : List (List Byte)) (total : Nat) : Prop where
  count : t.readByte 0x400 = BitVec.ofNat 8 total
  records : ∀ (j : Nat) (h : Hit) (r : List Byte), hit[j]? = some h → replies[j]? = some r →
    t.readByte (0x401 + 3 * j) = h.id ∧ halfAt t (0x402 + 3 * j) = wordAt r 2
  padding : ∀ j, hit.length ≤ j → j < total →
    t.readByte (0x401 + 3 * j) = 0 ∧ halfAt t (0x402 + 3 * j) = 0
  slaves : ∀ (j : Nat) (h : Hit) (r : List Byte), hit[j]? = some h → replies[j]? = some r →
    (∀ (l : Nat) (g : Hit), j < l → hit[l]? = some g → g.index ≠ h.index) →
    (∀ k < 4, t.readByte (0x200 + 8 * h.index + k) = r.getD k 0) ∧
      RecordAfter s t h.index s.commandId s.sensorId h.value r
  others : ∀ off, (0x400 ≤ off → off < 0x401 + 3 * total → False) →
    (∀ h ∈ hit, ∀ k < 8, off ≠ 0x600 + 8 * h.index + k ∧ (k < 4 → off ≠ 0x200 + 8 * h.index + k)) →
    t.readByte off = s.readByte off

/-! ## Terms of the statements: the host side -/

/-- `START_LEN` (10_state.md R16). -/
def markerLen (s : State) : Nat := if s.ctrl.start2 then 2 else 1

/-- The search has taken `n` bytes and the last `len` of them are 0xFF (47_framing.md R132). -/
def MarkerAt (len : Nat) (rx : List Byte) (n : Nat) : Prop :=
  len ≤ n ∧ n ≤ rx.length ∧ ∀ j, n - len ≤ j → j < n → rx[j]? = some 0xFF

/-- The first marker ends after `n` bytes, within the search limit (R132). -/
def FoundAt (s : State) (n : Nat) : Prop :=
  MarkerAt (markerLen s) s.rx n ∧ (∀ m < n, ¬ MarkerAt (markerLen s) s.rx m) ∧
    (s.syncLim = 0 ∨ n ≤ s.syncLim.toNat)

/-- The search spends its limit with no marker (R132). -/
def SearchFails (s : State) : Prop :=
  s.syncLim ≠ 0 ∧ s.syncLim.toNat ≤ s.rx.length ∧
    ∀ m ≤ s.syncLim.toNat, ¬ MarkerAt (markerLen s) s.rx m

/-- The search takes every byte there is and waits for more (R132, 20_memory.md R57). -/
def SearchWaits (s : State) : Prop :=
  (s.syncLim = 0 ∨ s.rx.length < s.syncLim.toNat) ∧ ∀ m, ¬ MarkerAt (markerLen s) s.rx m

/-- The window after `n` bytes of the search (10_state.md R36). -/
def windowAfter (s : State) (n : Nat) : List Byte :=
  (List.replicate (markerLen s) 0 ++ s.rx.take n).drop n

/-- The checksum of a count and record bytes (30_encoding.md R70). -/
def checksumOf (s : State) (c : Nat) (records : List Byte) : Byte :=
  BitVec.ofNat 8 ((if s.ctrl.ckSeed then 0xFF * markerLen s else 0) + c +
    (records.map BitVec.toNat).sum)

/-- The trailer of a frame with these records (30_encoding.md R68). -/
def trailer (s : State) (c : Nat) (records : List Byte) : Byte :=
  if s.ctrl.zeroEnd then 0 else checksumOf s c records

/-- The record bytes of the sensor batch (10_state.md R30). -/
def sensorBytes (s : State) (c : Nat) : List Byte := (List.range (3 * c)).map fun j => s.readByte (0x401 + j)

/-- The frame of the sensor batch (30_encoding.md R68). -/
def frameOf (s : State) (c : Nat) : List Byte :=
  List.replicate (markerLen s) 0xFF ++ [BitVec.ofNat 8 c] ++ sensorBytes s c ++
    [trailer s c (sensorBytes s c)]

/-- The command batch holds this count byte and these record bytes, and every other byte is as before. -/
def LoadsBatch (s t : State) (count : Byte) (records : List Byte) : Prop :=
  t.readByte 0x300 = count ∧ (∀ k < records.length, t.readByte (0x301 + k) = records.getD k 0) ∧
    ∀ off, off ≠ 0x300 → (∀ k < records.length, off ≠ 0x301 + k) → t.readByte off = s.readByte off

/-! ## Terms of the statements: the register port -/

/-- The mapped words of the register space (20_memory.md R42), at aligned offsets. -/
def Mapped (off : Nat) : Prop :=
  off ≤ 0x028 ∨ (0x100 ≤ off ∧ off ≤ 0x107) ∨ (0x200 ≤ off ∧ off ≤ 0x2BF) ∨
    (0x300 ≤ off ∧ off ≤ 0x372) ∨ (0x400 ≤ off ∧ off ≤ 0x472) ∨ (0x500 ≤ off ∧ off ≤ 0x55F) ∨
    (0x600 ≤ off ∧ off ≤ 0x6BF)

/-- The read-only registers and windows (R42). -/
def ReadOnly (off : Nat) : Prop :=
  off = 0x010 ∨ off = 0x020 ∨ off = 0x024 ∨ off = 0x028 ∨ (0x200 ≤ off ∧ off ≤ 0x2BF) ∨
    (0x600 ≤ off ∧ off ≤ 0x6BF)

/-- The windows that the rule of an operation writes (10_state.md R27 to R32; the `Status written` lines
of 44_spi_transport.md, 45_fanout.md and 47_framing.md): none writes `TXBUF` or `REGISTRY`. `CLRBATCH`,
whose selector decides, counts for both batches (log 15). -/
def WritesWindow (i : Instr) (off : Nat) : Prop :=
  (0x200 ≤ off ∧ off ≤ 0x2BF ∧
    ((∃ n, i = .xfern n) ∨ (∃ a, i = .srd8 a) ∨ (∃ a b, i = .srw8 a b) ∨ (∃ a, i = .srd16 a) ∨
      (∃ a w, i = .srw16 a w) ∨ (∃ a n, i = .srdn a n) ∨ (∃ a n, i = .srwn a n) ∨
      (∃ a v, i = .txn a v) ∨ i = .swap)) ∨
  (0x300 ≤ off ∧ off ≤ 0x372 ∧ (i = .rdbatch ∨ ∃ k, i = .clrbatch k)) ∨
  (0x400 ≤ off ∧ off ≤ 0x472 ∧ (i = .swap ∨ (∃ id v, i = .putrec id v) ∨ ∃ k, i = .clrbatch k)) ∨
  (0x600 ≤ off ∧ off ≤ 0x6BF ∧ ((∃ a v, i = .txn a v) ∨ i = .swap))

/-- A 32-bit access at a mapped aligned offset (20_memory.md R44, R45). -/
def Accepted (off : BitVec 12) (width : Nat) : Prop :=
  width = 4 ∧ off.toNat % 4 = 0 ∧ Mapped off.toNat

/-- A truth value as a bit of a word. -/
def flagBit (b : Bool) (n : Nat) : Nat := if b then 2 ^ n else 0

end Sys2Proof.Safety
end

