-- ==== Sys2Proof/WellFormed.lean ====
section
/-! DEFINITION. Well-formed instructions: every numeric operand fits the field that carries it
(30_encoding.md R60, R61). An operand the operation itself refuses (a channel above 63, a length of 0)
is well formed: the encoding admits it and the operation's rule says what happens. -/

namespace Sys2Proof

/-- The operand fits `A`, an unsigned 8-bit number. -/
def fitsA (n : Nat) : Bool := decide (n < 256)

/-- The operand fits `B[3:0]`, an unsigned count. -/
def fitsCount (n : Nat) : Bool := decide (n < 16)

def Instr.wellFormed : Instr → Bool
  | .muxsel channel => fitsA channel
  | .adcsample channel => fitsA channel
  | .beginBracket index => fitsA index
  | .clrbatch selector => fitsA selector
  | .xfern n => fitsCount n
  | .swrn _ n => fitsCount n
  | .srdn _ n => fitsCount n
  | .srwn _ n => fitsCount n
  | .nop => true
  | .srst => true
  | .u16fb _ _ => true
  | .bfu16 _ => true
  | .u10to16 _ => true
  | .u16to10 _ => true
  | .u10to12 _ => true
  | .u12to10 _ => true
  | .u12to16 _ => true
  | .u16to12 _ => true
  | .clamp12 _ => true
  | .adc2v _ => true
  | .dacwr _ => true
  | .lkmus _ => true
  | .lkslv _ => true
  | .endBracket => true
  | .xfer8 _ => true
  | .xfer16 _ => true
  | .swr8 _ _ => true
  | .srd8 _ => true
  | .srw8 _ _ => true
  | .swr16 _ _ => true
  | .srd16 _ => true
  | .srw16 _ _ => true
  | .txn _ _ => true
  | .swap => true
  | .mirror => true
  | .sync => true
  | .rdbatch => true
  | .wrbatch => true
  | .cksumtx => true
  | .putrec _ _ => true

end Sys2Proof
end

