-- ==== Sys2Proof/Certificates/Slice0/Obligations.lean ====
section
/-! DEFINITION. The statements for the provers. Each docstring names the rules of spec/ it formalises; a
clause that is the model's choice names its log entry. -/

open Sys2Proof Sys2Proof.Machine Sys2Proof.Safety

/-! ## The operation word -/

/-- 30_encoding.md R60 to R62: decoding the word of an operation gives the operation back. -/
def Obligations.EncodeThenDecode : Prop :=
  ∀ i : Instr, i.wellFormed = true → decode (encode i) = .ok i

/-- R60 to R62: a decoded operation is well formed, and encoding it keeps exactly the bits its row
uses. -/
def Obligations.DecodeThenEncode : Prop :=
  ∀ (w : Word) (i : Instr), decode w = .ok i → i.wellFormed = true ∧ encode i = w &&& usedBits i

/-- R61: two words that agree on the bits the operation uses are the same operation. -/
def Obligations.UnusedBitsAreIgnored : Prop :=
  ∀ (w w' : Word) (i : Instr), decode w = .ok i → w &&& usedBits i = w' &&& usedBits i →
    decode w' = .ok i

/-- R63 and 60_exceptions.md R148: a word whose opcode the rule lists is refused with `E_ILLEGAL`,
`DONE` is set and nothing else changes; every other opcode is an operation. -/
def Obligations.IllegalOpcodes : Prop :=
  (∀ (s : State) (w : Word) (rest : List Move), s.moves = .issue w :: rest → Idle s →
    IllegalOp (w.toNat / 2 ^ 24) →
    step s = .next { s with
      moves := rest
      errKind := s.errKind ||| 0x400
      lastCause := 11
      errInfo := BitVec.ofNat 16 (w.toNat / 2 ^ 24)
      done := true }) ∧
  ∀ w : Word, ¬ IllegalOp (w.toNat / 2 ^ 24) → ∃ i, decode w = .ok i

/-- R62: words of each family, written out from the table. -/
def Obligations.SampleWords : Prop :=
  decode 0x00000000 = .ok .nop ∧ decode 0x10340012 = .ok (.u16fb 0x34 0x12) ∧
    decode 0x202D0000 = .ok (.muxsel 45) ∧ decode 0x28280000 = .ok (.lkmus 40) ∧
    decode 0x30020000 = .ok (.beginBracket 2) ∧ decode 0x3EFF0004 = .ok (.swrn 255 4) ∧
    decode 0x48010200 = .ok (.txn 1 0x0200) ∧ decode 0x50000000 = .ok .swap ∧
    decode 0x65070014 = .ok (.putrec 7 20)

/-! ## One step of the machine -/

/-- The model's step (log 1): an operation line runs the decoded operation, another move is performed,
and with no move listed the sequencer takes a step. -/
def Obligations.StepRunsTheDecodedOperation : Prop :=
  (∀ (s : State) (w : Word) (rest : List Move) (i : Instr), s.moves = .issue w :: rest →
    decode w = .ok i → step s = exec i { s with moves := rest }) ∧
  (∀ (s : State) (w : Word) (i : Instr), decode w = .ok i →
    step (s.withFetchWord 32 w.toNat) = exec i s) ∧
  (∀ (s : State) (m : Move) (rest : List Move), s.moves = m :: rest → (∀ w, m ≠ .issue w) →
    step s = .next (perform m { s with moves := rest })) ∧
  ∀ s : State, s.moves = [] → step s = .next (tick s)

/-- Every step answers a next state: the block has no fault state (93_implementation_defined.md) and no
trap (60_exceptions.md R152). -/
def Obligations.EveryStepAnswers : Prop := ∀ s : State, ∃ t, step s = .next t

/-- 30_encoding.md R73 and R148: an operation line is the `CMD` write followed by `WAIT`, the sequencer's
own steps until it has nothing left to do by itself (log 2). The `CMD` write is the controller's write of
the operation word to offset 0x00C (10_state.md R20): it starts the operation, which is then running with
every register as it was (60_exceptions.md R147); a batch count that its rule clears first is cleared with
it (log 4). `SRST` runs at once, whatever `BUSY` is; a word that is no operation records
`E_ILLEGAL` and sets `DONE`. -/
def Obligations.ExecIsIssueThenWait : Prop :=
  (∀ (i : Instr) (s : State), s.busy = false →
    ∃ n, exec i s = .next (tick^[n] (issue i s)) ∧ (tick^[n] (issue i s)).quiescent = true) ∧
  (∀ (s : State) (w : Word) (i : Instr), decode w = .ok i →
    perform (.write 0x00C 4 w) s = issue i s) ∧
  (∀ (i : Instr) (s : State), i ≠ .srst → Idle s → ∃ (r : Running) (t : State), r.op = i ∧
    issue i s = t ∧ t = { s with seq := .running r, mem := t.mem } ∧
    ∀ off, t.readByte off = s.readByte off ∨ (t.readByte off = 0 ∧
      ((off = 0x300 ∧ (i = .rdbatch ∨ i = .clrbatch 1)) ∨
        (off = 0x400 ∧ (i = .swap ∨ i = .clrbatch 0))))) ∧
  (∀ s : State, exec .srst s = .next (issue .srst s)) ∧
  (∀ (s : State) (w : Word), Idle s → IllegalOp (w.toNat / 2 ^ 24) →
    perform (.write 0x00C 4 w) s = { s with
      errKind := s.errKind ||| 0x400
      lastCause := 11
      errInfo := BitVec.ofNat 16 (w.toNat / 2 ^ 24)
      done := true }) ∧
  ∀ s : State, ∃ n, perform .wait s = tick^[n] s ∧ (tick^[n] s).quiescent = true

/-- 48_control.md R142, 60_exceptions.md R147 and R151: every operation ends, with `BUSY = 0`, `DONE = 1`
and `IRQ` as `IRQ_EN` says; only `SYNC` and `RDBATCH` may instead wait for a host byte. -/
def Obligations.OperationsEnd : Prop :=
  ∀ (i : Instr) (s : State), Idle s → ∃ t, exec i s = .next t ∧
    ((Idle t ∧ t.done = true ∧ t.irq = s.ctrl.irqEn) ∨
      ((i = .sync ∨ i = .rdbatch) ∧ t.busy = true ∧ t.waiting = true ∧ t.rx = [] ∧ t.done = s.done))

/-- R148: while an operation runs, a `CMD` write of any word other than `SRST`'s, an illegal one too,
records `E_BUSY` and changes nothing else, `DONE` included; so does its operation line. -/
def Obligations.BusyRefusesOperations : Prop :=
  (∀ (i : Instr) (s : State), i ≠ .srst → s.busy = true →
    exec i s = .next { s with errKind := s.errKind ||| 0x100, lastCause := 9, errInfo := 0x00C }) ∧
  ∀ (s : State) (w : Word), s.busy = true → w.toNat / 2 ^ 24 ≠ 1 →
    perform (.write 0x00C 4 w) s =
      { s with errKind := s.errKind ||| 0x100, lastCause := 9, errInfo := 0x00C } ∧
    ∀ rest, s.moves = .issue w :: rest → step s = .next { s with
      moves := rest
      errKind := s.errKind ||| 0x100
      lastCause := 9
      errInfo := 0x00C }

/-- The invariant `Inv` is kept by every step: canonical memory, error registers (R145), no registry id
of 255 (30_encoding.md R65), pins and bracket that agree at every step of an operation, bytes in
brackets only (44_spi_transport.md R98 to R102). -/
def Obligations.EveryStepKeepsTheInvariant : Prop :=
  ∀ s t : State, Inv s → step s = .next t → Inv t

/-- The reset state has the invariant (70_reset_and_hazards.md R160; parameters as in log 9). -/
def Obligations.ResetHasTheInvariant : Prop := Inv State.reset

/-- What the sequencer never writes: the parameters, `CTRL`, `TXHDR`, `SYNCLIM`, `TXBUF` and `REGISTRY`;
it only sets error bits and `DONE`, takes from `RX`, appends to `TX` (10_state.md R40,
20_memory.md R47, R51). -/
def Obligations.SequencerFrame : Prop :=
  ∀ s : State,
    (tick s).params = s.params ∧ (tick s).ctrl = s.ctrl ∧ (tick s).commandId = s.commandId ∧
    (tick s).sensorId = s.sensorId ∧ (tick s).syncLim = s.syncLim ∧ (tick s).moves = s.moves ∧
    (tick s).readData = s.readData ∧ s.errKind ||| (tick s).errKind = (tick s).errKind ∧
    (s.done = true → (tick s).done = true) ∧ (tick s).rx <:+ s.rx ∧ s.tx <+: (tick s).tx ∧
    s.bus <+: (tick s).bus ∧ s.now ≤ (tick s).now ∧
    (Inv s → ∀ off, off < 0x200 ∨ (0x500 ≤ off ∧ off < 0x600) →
      (tick s).readByte off = s.readByte off)

/-- A byte the host sends while an operation waits has the effect it would have had if it had been there
before (20_memory.md R58, 60_exceptions.md R150). -/
def Obligations.HostBytesMayComeLate : Prop :=
  ∀ (s : State) (b : Byte), drain ((drain s).hostSend b) = drain (s.hostSend b)

/-! ## Control operations -/

/-- 48_control.md R140. -/
def Obligations.NopSetsDoneOnly : Prop :=
  ∀ s : State, Idle s → exec .nop s = .next { s with done := true }

/-- 48_control.md R141 and 47_framing.md R135: every step keeps `CMDBATCH[0] = 0` while `RDBATCH` runs, so
an abandoned `RDBATCH` leaves 0 there, wherever `SRST` falls between its steps (log 4). -/
def Obligations.AbandonedReadBatch : Prop :=
  ReadBatchCleared State.reset ∧
  (∀ s t : State, ReadBatchCleared s → step s = .next t → ReadBatchCleared t) ∧
  ∀ (s : State) (r : Running), ReadBatchCleared s → s.seq = .running r → r.op = .rdbatch →
    ∃ t, exec .srst s = .next t ∧ Idle t ∧ t.done = true ∧ t.readByte 0x300 = 0

/-- 48_control.md R141: `SRST` in any state whose pin is released when no bracket is open (`Inv` gives
that): the sequencer is idle, the bracket closed, the pin released, `DONE` set, and nothing else
changes. -/
def Obligations.SoftReset : Prop :=
  ∀ s : State, (s.bracket = .closed → s.cs = .released) →
    exec .srst s = .next { s with
      seq := .idle
      bracket := .closed
      cs := .released
      lastByteEnd := none
      done := true
      bus := if s.bracket = .closed then s.bus else s.bus ++ [.released] }

/-! ## Codec operations -/

/-- 41_codec.md R76 and R77, and that a value taken apart is put together again. -/
def Obligations.BytePairs : Prop :=
  ∀ (s : State) (low high : Byte) (v : Half), Idle s →
    exec (.u16fb low high) s = .next (ended s (low.toNat + 256 * high.toNat) 0) ∧
    exec (.bfu16 v) s = .next (ended s (v.toNat % 256) (v.toNat / 256)) ∧
    exec (.u16fb (lowByte v) (highByte v)) s = .next (ended s v.toNat 0)

/-- 41_codec.md R75 and R78 to R83: the exact quotient rounded half up, saturated at the target full
scale, with `E_RANGE` above the source full scale; on 0..1023 the conversion to 16 bits does not decrease
and the one back undoes it. -/
def Obligations.RangeConversions : Prop :=
  (∀ (s : State) (x : Half), Idle s →
    exec (.u10to16 x) s = .next (ended (flagRange s x 1023) (scaled x.toNat 1023 65535) 0) ∧
    exec (.u16to10 x) s = .next (ended s (scaled x.toNat 65535 1023) 0) ∧
    exec (.u10to12 x) s = .next (ended (flagRange s x 1023) (scaled x.toNat 1023 4095) 0) ∧
    exec (.u12to10 x) s = .next (ended (flagRange s x 4095) (scaled x.toNat 4095 1023) 0) ∧
    exec (.u12to16 x) s = .next (ended (flagRange s x 4095) (scaled x.toNat 4095 65535) 0) ∧
    exec (.u16to12 x) s = .next (ended s (scaled x.toNat 65535 4095) 0)) ∧
  (∀ x y : Nat, x ≤ y → y ≤ 1023 → scaled x 1023 65535 ≤ scaled y 1023 65535) ∧
  ∀ x : Nat, x ≤ 1023 → scaled (scaled x 1023 65535) 65535 1023 = x

/-- 41_codec.md R84 and R86. -/
def Obligations.ClampAndDac : Prop :=
  ∀ (s : State) (v : Half), Idle s →
    exec (.clamp12 v) s = .next (ended (flagRange s v 4095) (min v.toNat 4095) 0) ∧
    exec (.dacwr v) s = .next
      { ended (flagRange s v 4095) (min v.toNat 4095) 0 with dac := BitVec.ofNat 12 (min v.toNat 4095) }

/-- 41_codec.md R85: `RESULT` is the binary32 word nearest to `min(x, 1023) * V_REF / 1023`, ties to
even, below the format's overflow (the format is IEEE 754's: log 14, PRESUMED). -/
def Obligations.AdcToVoltage : Prop :=
  ∀ (s : State) (x : Half) (v : ℚ), Idle s → s.params.wf = true →
    v = (min x.toNat 1023 : ℕ) * ((s.params.vRefNum : ℚ) / s.params.vRefDen) / 1023 →
    v < 2 ^ 128 - 2 ^ 103 →
    ∃ w : Word, NearestEven w v ∧
      exec (.adc2v x) s = .next
        (ended (flagRange s x 1023) (w.toNat % 2 ^ 16) (w.toNat / 2 ^ 16))

/-! ## Mux and registry operations -/

/-- 42_mux.md R90, with the pin encoding of 30_encoding.md R66 and the settle time of R87. -/
def Obligations.SelectChannel : Prop :=
  ∀ (s : State) (ch : Nat), ch < 256 → Idle s →
    (s.bracket ≠ .closed → exec (.muxsel ch) s = .next (refusal s .nest ch)) ∧
    (s.bracket = .closed → 63 < ch → exec (.muxsel ch) s = .next (refusal s .badArg ch)) ∧
    (s.bracket = .closed → ch ≤ 63 →
      exec (.muxsel ch) s = .next { s with
        muxL := BitVec.ofNat 3 (ch % 8)
        muxU := BitVec.ofNat 3 (ch / 8)
        settledAt := s.now + s.params.tSettle
        now := s.now + s.params.tSettle
        done := true })

/-- 42_mux.md R91 and R89: the sample is the next draw's low ten bits (log 3). -/
def Obligations.SampleChannel : Prop :=
  ∀ (s : State) (ch : Nat), ch < 256 → Idle s →
    (s.bracket ≠ .closed → exec (.adcsample ch) s = .next (refusal s .nest ch)) ∧
    (s.bracket = .closed → 63 < ch → exec (.adcsample ch) s = .next (refusal s .badArg ch)) ∧
    (s.bracket = .closed → ch ≤ 63 →
      exec (.adcsample ch) s = .next { s with
        muxL := BitVec.ofNat 3 (ch % 8)
        muxU := BitVec.ofNat 3 (ch / 8)
        settledAt := s.now + s.params.tSettle
        now := s.now + s.params.tSettle
        res0 := BitVec.ofNat 16 (s.draws.head.toNat % 1024)
        res1 := 0
        draws := s.draws.tail
        done := true })

/-- 43_registry.md R93, R96 and R97: the lowest index whose row has the id, else 255; the internal
lookup of `SWAP` is the one `LKMUS` shows; no row of a safe state (`Inv`) has the id 255. -/
def Obligations.Lookups : Prop :=
  ∀ (s : State) (id : Byte), Idle s →
    (∀ i < s.params.nSlaves, s.readByte (0x501 + 4 * i) = id →
      (∀ j < i, s.readByte (0x501 + 4 * j) ≠ id) →
      exec (.lkmus id) s = .next (ended s i 0) ∧ s.lookupMuscle id = some i) ∧
    ((∀ i < s.params.nSlaves, s.readByte (0x501 + 4 * i) ≠ id) →
      exec (.lkmus id) s = .next (ended s 255 0) ∧ s.lookupMuscle id = none) ∧
    (∀ i < s.params.nSlaves, s.readByte (0x500 + 4 * i) = id →
      (∀ j < i, s.readByte (0x500 + 4 * j) ≠ id) →
      exec (.lkslv id) s = .next (ended s i 0)) ∧
    ((∀ i < s.params.nSlaves, s.readByte (0x500 + 4 * i) ≠ id) →
      exec (.lkslv id) s = .next (ended s 255 0)) ∧
    (Inv s → exec (.lkmus 255) s = .next (ended s 255 0) ∧ exec (.lkslv 255) s = .next (ended s 255 0))

/-! ## Raw bracket operations -/

/-- 44_spi_transport.md R104. -/
def Obligations.BeginOpensABracket : Prop :=
  ∀ (s : State) (i : Nat), i < 256 → Idle s →
    (s.bracket ≠ .closed → exec (.beginBracket i) s = .next (refusal s .nest i)) ∧
    (s.bracket = .closed → s.params.nSlaves ≤ i →
      exec (.beginBracket i) s = .next (refusal s .badArg i)) ∧
    (s.bracket = .closed → i < s.params.nSlaves → s.params.nSlaves ≤ 24 →
      exec (.beginBracket i) s = .next { s with
        muxL := BitVec.ofNat 3 ((i + 37) % 8)
        muxU := BitVec.ofNat 3 ((i + 37) / 8)
        settledAt := s.now + s.params.tSettle
        now := s.now + s.params.tSettle
        cs := .low
        bracket := .opened i
        lastByteEnd := none
        done := true
        bus := s.bus ++ [.asserted (BitVec.ofNat 6 (i + 37))] })

/-- 44_spi_transport.md R105. -/
def Obligations.EndClosesTheBracket : Prop :=
  ∀ s : State, Idle s →
    (s.bracket = .closed → exec .endBracket s = .next (refusal s .unbal 0)) ∧
    (s.bracket ≠ .closed → exec .endBracket s = .next { s with
      cs := .released
      bracket := .closed
      done := true
      bus := s.bus ++ [.released] })

/-- 44_spi_transport.md R99 and R100: one byte exchange in an open bracket, no earlier than `T_IB` after
the one before. -/
def Obligations.ByteExchange : Prop :=
  ∀ (s : State) (i : Nat) (out : Byte), s.bracket = .opened i →
    s.exchange out = { s with
      now := (match s.lastByteEnd with | none => s.now | some t => max s.now (t + s.params.tIb))
      lastByteEnd :=
        some (match s.lastByteEnd with | none => s.now | some t => max s.now (t + s.params.tIb))
      peers := (s.peerReply i out).2.1
      draws := (s.peerReply i out).2.2
      bus := s.bus ++ [.byte out (s.peerReply i out).1] }

/-- 44_spi_transport.md R98, 46_slave_peer.md R126 and R127: the selected slave's transmit register is
the reply and its peer alone steps; with no selected slave at the index the reply is a draw and no
peer changes (93_implementation_defined.md I14; log 8). 70_reset_and_hazards.md R165 and I13: at an early
exchange, one before the slave has handled the byte before, the reply and that peer's SPI state are
draws, the attachment and the other peers stay (logs 3, 7); and where the slaves keep up, no exchange of a
safe state (`Inv`) is early. -/
def Obligations.PeerReply : Prop :=
  ∀ (s : State) (i : Nat) (out : Byte) (p : Peer), s.peers[i]? = some p →
    (p.attached = true → s.selects i = true → p.readyAt ≤ s.byteStart →
      (s.peerReply i out).1 = p.txReg ∧
      (s.peerReply i out).2.1 = s.peers.set i (p.exchange s.params s.byteStart out s.draws).2.1 ∧
      (s.peerReply i out).2.2 = (p.exchange s.params s.byteStart out s.draws).2.2) ∧
    (p.attached = true → s.selects i = true → s.byteStart < p.readyAt →
      ∃ q, s.peerReply i out = (s.draws.head.setWidth 8, s.peers.set i q, s.draws.skip 16) ∧
        q.attached = p.attached ∧ q.readyAt = p.readyAt + s.params.tSlaveIsr ∧
        q.spiIndex = (s.draws.peek 1).toNat % 256 ∧
        q.maxSpiIndex = (if (s.draws.peek 2).toNat % 2 = 1 then .eight else .four) ∧
        q.pendingLen = (if (s.draws.peek 3).toNat % 2 = 1 then .eight else .four) ∧
        q.commandId = (s.draws.peek 4).setWidth 8 ∧ q.sensorId = (s.draws.peek 5).setWidth 8 ∧
        (q.staged.length = 0 ∨ q.staged.length = 2 ∨ q.staged.length = 6) ∧
        (∀ (k : Nat) (b : Byte), q.staged[k]? = some b → b = (s.draws.peek (7 + k)).setWidth 8) ∧
        q.rxLo = (s.draws.peek 13).setWidth 8 ∧ q.txReg = (s.draws.peek 14).setWidth 8 ∧
        q.desired = (s.draws.peek 15).setWidth 16) ∧
    (p.attached = false ∨ s.selects i = false →
      s.peerReply i out = (s.draws.head.setWidth 8, s.peers, s.draws.tail)) ∧
    (Inv s → s.params.slavesKeepUp = true → s.bracket = .opened i →
      (Idle s ∨ ∃ op b dest rest loc, s.seq = .running ⟨op, .exchange b dest :: rest, loc⟩) →
      s.selects i = true ∧ p.readyAt ≤ s.byteStart)

/-- 46_slave_peer.md R127 to R129: what the byte interrupt of a slave does at each position, for an
exchange that is not early (70_reset_and_hazards.md R165); `PeerReply` has the early one. When it has
handled the byte is the model's own field (log 7). -/
def Obligations.PeerByteInterrupt : Prop :=
  ∀ (ps : Params) (start : Nat) (m : Byte) (p : Peer) (d : Draws), p.readyAt ≤ start →
    (p.spiIndex = 0 → p.exchange ps start m d =
      (p.txReg, { p with
        commandId := m
        txReg := d.head.setWidth 8
        spiIndex := 1
        readyAt := start + ps.tSlaveIsr }, d.tail)) ∧
    (p.spiIndex = 1 →
      ∃ q d', p.exchange ps start m d = (p.txReg, q, d') ∧ q.spiIndex = 2 ∧ q.sensorId = m ∧
        q.readyAt = start + ps.tSlaveIsr ∧ q.commandId = p.commandId ∧ q.rxLo = p.rxLo ∧ q.desired = p.desired ∧
        q.attached = p.attached ∧
        q.pendingLen = (if m = 255 then .eight else .four) ∧
        q.maxSpiIndex = (if ps.lenTiming = .previous then p.maxSpiIndex
          else if m = 255 then .eight else .four) ∧
        (let p1 : Half := (d.peek 0).setWidth 16
         let p2 : Half := (d.peek 1).setWidth 16
         let j : Half := (d.peek 2).setWidth 16
         q.staged = (if m = 1 then [lowByte p1, highByte p1]
           else if m = 2 then [lowByte p2, highByte p2]
           else if m = 3 then [lowByte j, highByte j]
           else if m = 255 then
             [lowByte p1, highByte p1, lowByte p2, highByte p2, lowByte j, highByte j]
           else [])) ∧
        (q.staged = [] → q.txReg = (d.peek 3).setWidth 8 ∧ d' = d.skip 4) ∧
        (∀ b rest, q.staged = b :: rest → q.txReg = b ∧ d' = d.skip 3)) ∧
    (2 ≤ p.spiIndex →
      ∃ q d', p.exchange ps start m d = (p.txReg, q, d') ∧ q.readyAt = start + ps.tSlaveIsr ∧
        q.spiIndex = (p.spiIndex + 1) % p.maxSpiIndex.bytes ∧
        q.maxSpiIndex = (if q.spiIndex = 0 ∧ ps.lenTiming = .previous then p.pendingLen
          else p.maxSpiIndex) ∧
        q.pendingLen = p.pendingLen ∧ q.commandId = p.commandId ∧ q.sensorId = p.sensorId ∧
        q.staged = p.staged ∧ q.attached = p.attached ∧
        q.rxLo = (if p.spiIndex % 2 = 0 then m else p.rxLo) ∧
        q.desired = (if p.spiIndex % 2 = 1 ∧ p.commandId = 1 ∧
            (p.spiIndex = 3 ∨ ps.trailingWrite = true)
          then BitVec.ofNat 16 (p.rxLo.toNat + 256 * m.toNat) else p.desired) ∧
        (∀ b, p.staged[p.spiIndex - 1]? = some b → q.txReg = b ∧ d' = d) ∧
        (p.staged[p.spiIndex - 1]? = none → q.txReg = d.head.setWidth 8 ∧ d' = d.tail))

/-- 46_slave_peer.md R126: a peer that is not selected keeps its whole state, whatever any agent does
next (a `WAIT` is many steps of the sequencer, each of them covered). -/
def Obligations.UnselectedPeersKeepTheirState : Prop :=
  ∀ (s : State) (m : Move) (j : Nat), m ≠ .wait → s.selects j = false →
    (perform m s).peers[j]? = s.peers[j]?

/-- 44_spi_transport.md R106 and R107: the bytes of a transfer in the open bracket, low byte first. -/
def Obligations.TransfersInABracket : Prop :=
  (∀ (s : State) (out : Byte), Idle s →
    (s.bracket = .closed → exec (.xfer8 out) s = .next (refusal s .unbal out.toNat)) ∧
    (s.bracket ≠ .closed → exec (.xfer8 out) s =
      .next (ended (s.exchange out) (s.replyByte out).toNat 0))) ∧
  ∀ (s : State) (out : Half), Idle s →
    (s.bracket = .closed → exec (.xfer16 out) s = .next (refusal s .unbal 0)) ∧
    (s.bracket ≠ .closed →
      let low := lowByte out
      let high := highByte out
      let mid := s.exchange low
      exec (.xfer16 out) s = .next (ended (mid.exchange high)
        ((s.replyByte low).toNat + 256 * (mid.replyByte high).toNat) 0))

/-- 44_spi_transport.md R108: the first `n` bytes of `TXBUF` go out, the replies are what the selected
slave answers to each (R100) and go to the open bracket's row of `RXBUF`; the bracket stays open. -/
def Obligations.ArrayTransferInABracket : Prop :=
  ∀ (s : State) (n : Nat), n < 16 → Idle s →
    (s.bracket = .closed → exec (.xfern n) s = .next (refusal s .unbal 0)) ∧
    (∀ i, s.bracket = .opened i → i < s.params.nSlaves →
      (n = 0 ∨ 8 < n → exec (.xfern n) s = .next (refusal s .badArg n)) ∧
      (1 ≤ n → n ≤ 8 → ∃ (t : State) (r : List Byte), exec (.xfern n) s = .next t ∧
        TransferFrame s t ∧ t.done = true ∧ t.bracket = s.bracket ∧ t.cs = s.cs ∧
        t.muxL = s.muxL ∧ t.muxU = s.muxU ∧ t.settledAt = s.settledAt ∧
        r = (exchanges s (txBytes s n)).2 ∧ SameSpi (exchanges s (txBytes s n)).1 t ∧
        r.length = n ∧ t.bus = s.bus ++ List.zipWith BusEvent.byte (txBytes s n) r ∧
        KeepsReplies s t [i] [r] ∧ (∀ j, j ≠ i → t.peers[j]? = s.peers[j]?) ∧
        s.now + (n - 1) * s.params.tIb ≤ t.now ∧
        t.res0 = BitVec.ofNat 16 n ∧ t.res1 = 0))

/-! ## Bracketed operations -/

/-- 44_spi_transport.md R109, R110, R113 and R116: the writes, for one slave and for all. -/
def Obligations.BracketedWrites : Prop :=
  (∀ a b : Byte, RunsBrackets (.swr8 a b) a none (fun _ => [b]) false countOf) ∧
  (∀ (a : Byte) (w : Half), RunsBrackets (.swr16 a w) a none
    (fun _ => [lowByte w, highByte w]) false countOf) ∧
  ∀ (a : Byte) (n : Nat), n < 16 → RunsBrackets (.swrn a n) a (badCount n)
    (fun s => txBytes s n) false (countAndLength n)

/-- 44_spi_transport.md R109, R111, R114 and R117: the reads send 0x00 and keep the replies. With one
slave in all and `ALL`, `RES0` is the number reached (log 13). -/
def Obligations.BracketedReads : Prop :=
  (∀ a : Byte, RunsBrackets (.srd8 a) a none (fun _ => [0]) true (replyOf a)) ∧
  (∀ a : Byte, RunsBrackets (.srd16 a) a none (fun _ => [0, 0]) true (replyOf a)) ∧
  ∀ (a : Byte) (n : Nat), n < 16 → RunsBrackets (.srdn a n) a (badCount n)
    (fun _ => List.replicate n 0) true (countAndLength n)

/-- 44_spi_transport.md R109, R112, R115 and R118: the exchanges send the operand and keep the replies.
With one slave in all and `ALL`, `RES0` is the number reached (log 13). -/
def Obligations.BracketedExchanges : Prop :=
  (∀ a b : Byte, RunsBrackets (.srw8 a b) a none (fun _ => [b]) true (replyOf a)) ∧
  (∀ (a : Byte) (w : Half), RunsBrackets (.srw16 a w) a none
    (fun _ => [lowByte w, highByte w]) true (replyOf a)) ∧
  ∀ (a : Byte) (n : Nat), n < 16 → RunsBrackets (.srwn a n) a (badCount n)
    (fun s => txBytes s n) true (countAndLength n)

/-- 44_spi_transport.md R119 and R120, 30_encoding.md R71: one transaction on each target, the replies
what the selected slaves answer; `RXBUF` and `SLAVEREC` of the targets, and no other byte, change. With
one slave in all, `ALL` is a single target (log 13). -/
def Obligations.Transactions : Prop :=
  ∀ (s : State) (a : Byte) (v : Half), Idle s → s.params.wf = true →
    (s.bracket ≠ .closed → exec (.txn a v) s = .next (refusal s .nest a.toNat)) ∧
    (s.bracket = .closed → Unknown s a →
      exec (.txn a v) s = .next (refusal s .unknownId a.toNat)) ∧
    (s.bracket = .closed → ∀ targets, Targets s a targets →
      let out := masterBytes s.commandId s.sensorId v
      ∃ t replies, exec (.txn a v) s = .next t ∧ TransferFrame s t ∧ t.done = true ∧
        Brackets s t targets (targets.map fun _ => out) replies ∧
        (∀ (j i : Nat) (r : List Byte), targets[j]? = some i → replies[j]? = some r →
          (∀ k < out.length, t.readByte (0x200 + 8 * i + k) = r.getD k 0) ∧
            RecordAfter s t i s.commandId s.sensorId v r) ∧
        (∀ off, (∀ i ∈ targets, ∀ k < 8, off ≠ 0x600 + 8 * i + k ∧
          (k < out.length → off ≠ 0x200 + 8 * i + k)) → t.readByte off = s.readByte off) ∧
        (targets.length = 1 →
          t.res0 = BitVec.ofNat 16 (wordAt (replies.headD []) 2) ∧
          t.res1 = (if s.sensorId = 255 then BitVec.ofNat 16 (wordAt (replies.headD []) 4) else 0)) ∧
        (targets.length ≠ 1 → t.res0 = BitVec.ofNat 16 targets.length ∧ t.res1 = 0))

/-- 46_slave_peer.md R130 and 30_encoding.md R72, R128: a transaction in step with an attached slave that
has handled each byte before the next (70_reset_and_hazards.md R165) reads the sensor values drawn when it staged them, and leaves the slave in step; the draws
are numbered from the next one (log 3). -/
def Obligations.TransactionsInStepReadSensors : Prop :=
  ∀ (s : State) (a : Byte) (v : Half) (i : Nat) (p : Peer), Idle s → s.bracket = .closed →
    s.params.wf = true → s.params.tSlaveIsr ≤ s.params.tIb → Targets s a [i] →
    s.peers[i]? = some p → p.readyAt ≤ s.now + s.params.tSettle → p.attached = true → p.spiIndex = 0 →
    ((s.sensorId = 1 ∨ s.sensorId = 2 ∨ s.sensorId = 3) →
      (s.params.lenTiming = .current ∨ (p.maxSpiIndex = .four)) →
      ∃ t q, exec (.txn a v) s = .next t ∧ t.peers[i]? = some q ∧ q.spiIndex = 0 ∧
        t.res0 = (s.draws.peek s.sensorId.toNat).setWidth 16 ∧ t.res1 = 0 ∧
        q.desired = (if s.commandId = 1 then v else p.desired)) ∧
    (s.sensorId = 255 → (s.params.lenTiming = .current ∨ p.maxSpiIndex = .eight) →
      ∃ t q, exec (.txn a v) s = .next t ∧ t.peers[i]? = some q ∧ q.spiIndex = 0 ∧
        t.res0 = (s.draws.peek 1).setWidth 16 ∧ t.res1 = (s.draws.peek 2).setWidth 16 ∧
        halfAt t (0x604 + 8 * i) = (s.draws.peek 3).toNat % 2 ^ 16)

/-! ## Fan-out, harvest and mirror -/

/-- 45_fanout.md R121 and R122: the checks, then one transaction for each known command in batch order,
the sensor batch, the counters, and the errors as flagged. -/
def Obligations.FanOutAndHarvest : Prop :=
  ∀ s : State, Idle s → s.params.wf = true →
    (s.bracket ≠ .closed → exec .swap s = .next (refusal s .nest 0)) ∧
    (s.bracket = .closed → s.sensorId ≠ 1 → s.sensorId ≠ 2 → s.sensorId ≠ 3 →
      exec .swap s = .next (refusal s .badArg s.sensorId.toNat)) ∧
    (s.bracket = .closed → s.sensorId = 1 ∨ s.sensorId = 2 ∨ s.sensorId = 3 →
      let m := (s.readByte 0x300).toNat
      (38 < m → exec .swap s = .next (refusal s .len m)) ∧
      (m ≤ 38 →
        let hit := hits s m
        let miss := misses s m
        let wanted := hit.length + s.ctrl.padCount.toNat
        ∃ (t : State) (replies : List (List Byte)), exec .swap s = .next t ∧
          Brackets s t (hit.map Hit.index)
            (hit.map fun h => masterBytes s.commandId s.sensorId h.value) replies ∧
          Harvest s t hit replies (min 38 wanted) ∧
          t.res0 = BitVec.ofNat 16 hit.length ∧ t.res1 = BitVec.ofNat 16 miss.length ∧
          t.unkCnt = BitVec.ofNat 16 (min (s.unkCnt.toNat + miss.length) 0xFFFF) ∧
          t.errKind = s.errKind ||| (if s.ctrl.unkErr = true ∧ miss ≠ [] then 0x004 else 0) |||
            (if 38 < wanted then 0x200 else 0) ∧
          (38 < wanted → t.lastCause = 10 ∧ t.errInfo = 0) ∧
          (wanted ≤ 38 → s.ctrl.unkErr = true → ∀ id, miss.getLast? = some id →
            t.lastCause = 3 ∧ t.errInfo = BitVec.ofNat 16 id.toNat) ∧
          (wanted ≤ 38 → s.ctrl.unkErr = false ∨ miss = [] →
            t.lastCause = s.lastCause ∧ t.errInfo = s.errInfo) ∧
          t.done = true ∧
          TransferFrame s { t with
            unkCnt := s.unkCnt
            errKind := s.errKind
            lastCause := s.lastCause
            errInfo := s.errInfo }))

/-- 45_fanout.md R123; a slot from 38 on holds no record, whatever the count byte (10_state.md R30;
log 12). -/
def Obligations.MirrorToDac : Prop :=
  ∀ s : State, Idle s →
    let k := s.ctrl.mirrorSlot.toNat
    ((s.readByte 0x400).toNat ≤ k ∨ 38 ≤ k → exec .mirror s = .next (refusal s .badArg k)) ∧
    (k < (s.readByte 0x400).toNat → k < 38 → ∃ v : Half, v.toNat = halfAt s (0x402 + 3 * k) ∧
      exec .mirror s = .next { ended (flagRange s v 1023) (scaled v.toNat 1023 4095) 0 with
        dac := BitVec.ofNat 12 (scaled v.toNat 1023 4095) })

/-! ## Framing operations -/

/-- 47_framing.md R132 and R134: the marker found, the limit spent, or all bytes taken and the search
waiting. -/
def Obligations.MarkerSearch : Prop :=
  ∀ s : State, Idle s →
    (∀ n, FoundAt s n → exec .sync s = .next { ended s (min n 0xFFFF) 0 with
      rx := s.rx.drop n
      window := List.replicate (markerLen s) 0xFF }) ∧
    (SearchFails s → exec .sync s = .next { refusal s .desync s.syncLim.toNat with
      rx := s.rx.drop s.syncLim.toNat
      window := windowAfter s s.syncLim.toNat }) ∧
    (SearchWaits s → ∃ t, exec .sync s = .next t ∧ t.waiting = true ∧
      t = { s with rx := [], seq := t.seq, window := windowAfter s s.rx.length })

/-- 47_framing.md R135 and R133: the search, the count, the records, and the trailer as `RXCHK` says. -/
def Obligations.ReadBatch : Prop :=
  ∀ s : State, Idle s →
    (SearchFails s → ∃ t, exec .rdbatch s = .next t ∧ LoadsBatch s t 0 [] ∧
      t = { refusal s .desync s.syncLim.toNat with
        rx := s.rx.drop s.syncLim.toNat
        window := windowAfter s s.syncLim.toNat
        mem := t.mem }) ∧
    (∀ (n : Nat) (c : Byte) (body : List Byte), FoundAt s n → s.rx.drop n = c :: body →
      (38 < c.toNat → ∃ t, exec .rdbatch s = .next t ∧ LoadsBatch s t 0 [] ∧
        t = { refusal s .len c.toNat with
          rx := body
          window := List.replicate (markerLen s) 0xFF
          mem := t.mem }) ∧
      (c.toNat ≤ 38 → ∀ records more, body = records ++ more → records.length = 3 * c.toNat →
        (s.ctrl.rxChk = .none → ∃ t, exec .rdbatch s = .next t ∧ LoadsBatch s t c records ∧
          t = { ended s c.toNat 0 with
            rx := more
            window := List.replicate (markerLen s) 0xFF
            mem := t.mem }) ∧
        (s.ctrl.rxChk ≠ .none → ∀ (tr : Byte) (rest : List Byte), more = tr :: rest →
          (tr = trailer s c.toNat records →
            ∃ t, exec .rdbatch s = .next t ∧ LoadsBatch s t c records ∧
              t = { ended s c.toNat tr.toNat with
                rx := rest
                window := List.replicate (markerLen s) 0xFF
                mem := t.mem }) ∧
          (tr ≠ trailer s c.toNat records → s.ctrl.rxChk = .report →
            ∃ t, exec .rdbatch s = .next t ∧ LoadsBatch s t c records ∧
              t = { ended (refusal s .checksum tr.toNat) c.toNat tr.toNat with
                rx := rest
                window := List.replicate (markerLen s) 0xFF
                mem := t.mem }) ∧
          (tr ≠ trailer s c.toNat records → s.ctrl.rxChk = .discard →
            ∃ t, exec .rdbatch s = .next t ∧ LoadsBatch s t 0 records ∧
              t = { refusal s .checksum tr.toNat with
                rx := rest
                window := List.replicate (markerLen s) 0xFF
                mem := t.mem }))))

/-- 47_framing.md R136, 30_encoding.md R68 and R69: the frame of the sensor batch is appended to `TX`,
and nothing but `RESULT` and `DONE` changes besides. -/
def Obligations.WriteBatch : Prop :=
  ∀ s : State, Idle s →
    let c := (s.readByte 0x400).toNat
    (38 < c → exec .wrbatch s = .next (refusal s .len c)) ∧
    (c ≤ 38 → exec .wrbatch s = .next
      { ended s (markerLen s + 1 + 3 * c + 1) (trailer s c (sensorBytes s c)).toNat with
        tx := s.tx ++ frameOf s c })

/-- 47_framing.md R137 and R133. -/
def Obligations.ChecksumOfTheBatch : Prop :=
  ∀ s : State, Idle s →
    let c := (s.readByte 0x400).toNat
    (38 < c → exec .cksumtx s = .next (refusal s .len c)) ∧
    (c ≤ 38 → exec .cksumtx s = .next (ended s (checksumOf s c (sensorBytes s c)).toNat 0))

/-- 47_framing.md R138: one count byte is cleared, and no other byte changes. -/
def Obligations.ClearBatch : Prop :=
  ∀ s : State, Idle s →
    (∃ t, exec (.clrbatch 0) s = .next t ∧ t = { s with done := true, mem := t.mem } ∧
      t.readByte 0x400 = 0 ∧ ∀ off, off ≠ 0x400 → t.readByte off = s.readByte off) ∧
    (∃ t, exec (.clrbatch 1) s = .next t ∧ t = { s with done := true, mem := t.mem } ∧
      t.readByte 0x300 = 0 ∧ ∀ off, off ≠ 0x300 → t.readByte off = s.readByte off) ∧
    ∀ k, 1 < k → k < 256 → exec (.clrbatch k) s = .next (refusal s .badArg k)

/-- 47_framing.md R139 and 45_fanout.md R121: the record's three bytes and the count, and no other byte,
change. -/
def Obligations.PutRecord : Prop :=
  ∀ (s : State) (id : Byte) (v : Half), Idle s →
    let c := (s.readByte 0x400).toNat
    (38 ≤ c → exec (.putrec id v) s = .next (refusal s .len id.toNat)) ∧
    (c < 38 → ∃ t, exec (.putrec id v) s = .next t ∧ t = { ended s (c + 1) 0 with mem := t.mem } ∧
      (t.readByte 0x400).toNat = c + 1 ∧ t.readByte (0x401 + 3 * c) = id ∧
      halfAt t (0x402 + 3 * c) = v.toNat ∧
      ∀ off, off ≠ 0x400 → off ≠ 0x401 + 3 * c → off ≠ 0x402 + 3 * c → off ≠ 0x403 + 3 * c →
        t.readByte off = s.readByte off)

/-- The frame a block writes, another block with the same `START2`, `ZERO_END` and `CK_SEED` reads back
without error, whatever its check policy (47_framing.md R135 and R136, 70_reset_and_hazards.md R162). -/
def Obligations.FramesReadBack : Prop :=
  ∀ (s s' u : State) (frame rest : List Byte), Idle s → Idle u →
    (s.readByte 0x400).toNat ≤ 38 →
    exec .wrbatch s = .next s' → s'.tx = s.tx ++ frame →
    u.rx = frame ++ rest → u.ctrl.start2 = s.ctrl.start2 → u.ctrl.zeroEnd = s.ctrl.zeroEnd →
    u.ctrl.ckSeed = s.ctrl.ckSeed → (u.syncLim = 0 ∨ markerLen s ≤ u.syncLim.toNat) →
    ∃ t, exec .rdbatch u = .next t ∧ Idle t ∧ t.done = true ∧ t.errKind = u.errKind ∧
      (∀ k ≤ 3 * (s.readByte 0x400).toNat, t.readByte (0x300 + k) = s.readByte (0x400 + k)) ∧
      (u.ctrl.rxChk ≠ .none → t.rx = rest)

/-- 20_memory.md R58 and R59: the host appends any byte to `RX`, and takes the oldest byte of `TX`, at any
time; nothing else changes. With `TX` empty there is nothing to take. Time may pass (00_scope.md R12), which
changes the model's count of it alone (log 6). -/
def Obligations.HostMoves : Prop :=
  ∀ s : State,
    (∀ b, perform (.hostSend b) s = { s with rx := s.rx ++ [b] }) ∧
    (∀ b rest, s.tx = b :: rest → perform .hostTake s = { s with tx := rest }) ∧
    (s.tx = [] → perform .hostTake s = s) ∧
    ∀ t, perform (.elapse t) s = { s with now := s.now + t }

/-! ## The register port -/

/-- 20_memory.md R44 and R45: a misaligned, narrow or unmapped access and a write to a read-only word
record `E_ADDR`; the read returns 0 and nothing else changes. That a write to a row of `RXBUF` or
`SLAVEREC` of a slave index at or above `N_SLAVES` is among them is the model's choice (log 27). -/
def Obligations.RefusedAccesses : Prop :=
  ∀ (s : State) (off : BitVec 12) (width : Nat) (v : Word),
    (¬ Accepted off width →
      perform (.read off width) s = { s with
        errKind := s.errKind ||| 0x800
        lastCause := 12
        errInfo := off.setWidth 16
        readData := 0 }) ∧
    (¬ Accepted off width ∨ ReadOnly off.toNat →
      perform (.write off width v) s = { s with
        errKind := s.errKind ||| 0x800
        lastCause := 12
        errInfo := off.setWidth 16 })

/-- 20_memory.md R47: while an operation runs, an accepted write other than to `STATUS`, `ERR` and `CMD`
records `E_BUSY` and changes nothing. That a write to a `REGISTRY` entry of a slave index at or above
`N_SLAVES` is among them is the model's choice (log 30). -/
def Obligations.WritesWhileBusy : Prop :=
  ∀ (s : State) (off : BitVec 12) (v : Word), s.busy = true → Accepted off 4 →
    ¬ ReadOnly off.toNat → off ≠ 0x004 → off ≠ 0x008 → off ≠ 0x00C →
    perform (.write off 4 v) s = { s with
      errKind := s.errKind ||| 0x100
      lastCause := 9
      errInfo := off.setWidth 16 }

/-- 20_memory.md R47: what a read returns while an operation runs: `RESULT`, `UNKCNT`, `DAC` and a window
the operation's rule writes give a draw (log 15), every other register and window its value. That the whole word of such a window is
a draw, its bytes past the window and the rows of slave indices at or above `N_SLAVES` too, is the model's
choice (log 28). -/
def Obligations.ReadsWhileBusy : Prop :=
  ∀ (s : State) (r : Running) (off : BitVec 12), s.seq = .running r → Accepted off 4 →
    (off = 0x010 ∨ off = 0x018 ∨ off = 0x020 ∨ WritesWindow r.op off.toNat →
      perform (.read off 4) s = { s with readData := s.draws.head, draws := s.draws.tail }) ∧
    (off ≠ 0x010 → off ≠ 0x018 → off ≠ 0x020 → ¬ WritesWindow r.op off.toNat →
      perform (.read off 4) s = { s with readData := s.registerWord off.toNat })

/-- 20_memory.md R46 and R43: an accepted read of an idle block changes nothing, and returns the
register's word, or the four bytes of the window. -/
def Obligations.ReadsWhileIdle : Prop :=
  ∀ (s : State) (off : BitVec 12), Idle s → Accepted off 4 →
    perform (.read off 4) s = { s with readData := s.registerWord off.toNat } ∧
    (0x028 < off.toNat → (s.registerWord off.toNat).toNat =
      (s.readByte off.toNat).toNat + 2 ^ 8 * (s.readByte (off.toNat + 1)).toNat +
        2 ^ 16 * (s.readByte (off.toNat + 2)).toNat + 2 ^ 24 * (s.readByte (off.toNat + 3)).toNat)

/-- 10_state.md R16 to R26: the words of the registers. -/
def Obligations.RegisterWords : Prop :=
  ∀ s : State,
    (s.registerWord 0x000).toNat = flagBit s.ctrl.irqEn 0 + flagBit s.ctrl.start2 1 +
      flagBit s.ctrl.zeroEnd 2 + flagBit s.ctrl.ckSeed 3 +
      2 ^ 4 * (match s.ctrl.rxChk with | .none => 0 | .discard => 1 | .report => 2) +
      flagBit s.ctrl.unkErr 6 + flagBit s.ctrl.rxTmoEn 7 + 2 ^ 8 * s.ctrl.padCount.toNat +
      2 ^ 16 * s.ctrl.mirrorSlot.toNat ∧
    (s.registerWord 0x004).toNat = flagBit s.busy 0 + flagBit s.done 1 +
      flagBit (decide (s.bracket ≠ .closed)) 2 + flagBit (decide (s.errKind ≠ 0)) 3 +
      flagBit (decide (s.rx ≠ [])) 4 + 2 ^ 8 * (8 * s.muxU.toNat + s.muxL.toNat) +
      2 ^ 14 * (match s.cs with | .released => 0 | .high => 1 | .low => 2) +
      2 ^ 16 * (match s.bracket with | .closed => 0xFF | .opened i => i % 256) ∧
    (s.registerWord 0x008).toNat = 2 * s.errKind.toNat + 2 ^ 24 * s.lastCause.toNat ∧
    s.registerWord 0x00C = 0 ∧
    (s.registerWord 0x010).toNat = s.res0.toNat + 2 ^ 16 * s.res1.toNat ∧
    (s.registerWord 0x014).toNat = s.commandId.toNat + 2 ^ 8 * s.sensorId.toNat ∧
    (s.registerWord 0x018).toNat = s.unkCnt.toNat ∧
    (s.registerWord 0x01C).toNat = s.syncLim.toNat ∧
    (s.registerWord 0x020).toNat = s.dac.toNat ∧
    (s.registerWord 0x024).toNat = s.params.nSlaves % 256 + 2 ^ 8 * 38 + 2 ^ 16 * 38 + 2 ^ 24 * 8 ∧
    (s.registerWord 0x028).toNat = s.errInfo.toNat

/-- 10_state.md R16, R22 to R24: a controller write to an idle block's `CTRL`, `TXHDR`, `UNKCNT` or
`SYNCLIM` changes that register alone, and what it then reads as. -/
def Obligations.RegisterWrites : Prop :=
  ∀ (s : State) (v : Word), Idle s →
    (∃ t, perform (.write 0x000 4 v) s = t ∧ t = { s with ctrl := t.ctrl } ∧
      t.registerWord 0x000 =
        v &&& (if v.toNat / 16 % 4 = 3 then 0x00FFFFCF else 0x00FFFFFF)) ∧
    (∃ t, perform (.write 0x014 4 v) s = t ∧
      t = { s with commandId := t.commandId, sensorId := t.sensorId } ∧
      t.registerWord 0x014 = v &&& 0x0000FFFF) ∧
    perform (.write 0x018 4 v) s = { s with unkCnt := 0 } ∧
    (∃ t, perform (.write 0x01C 4 v) s = t ∧ t = { s with syncLim := t.syncLim } ∧
      t.registerWord 0x01C = v &&& 0x0000FFFF)

/-- 10_state.md R27, R29, R30 and 20_memory.md R42, R43: a word written to `TXBUF` or a batch of an idle
block: its bytes inside the window, and no other byte. -/
def Obligations.WindowWrites : Prop :=
  ∀ (s : State) (off : BitVec 12) (v : Word), Idle s → s.params.wf = true → Accepted off 4 →
    (0x100 ≤ off.toNat ∧ off.toNat < 0x108) ∨ (0x300 ≤ off.toNat ∧ off.toNat ≤ 0x470) →
    ∃ t, perform (.write off 4 v) s = t ∧ t = { s with mem := t.mem } ∧
      (∀ k < 4, t.readByte (off.toNat + k) =
        if off.toNat + k = 0x373 ∨ off.toNat + k = 0x473 then 0
        else BitVec.ofNat 8 (v.toNat / 2 ^ (8 * k))) ∧
      ∀ a, (∀ k < 4, a ≠ off.toNat + k) → t.readByte a = s.readByte a

/-- 43_registry.md R95: a registry write stores three bytes; one holding 255 as an id changes nothing and
records `E_BADARG`. -/
def Obligations.RegistryWrites : Prop :=
  ∀ (s : State) (i : Nat) (v : Word), Idle s → s.params.wf = true → i < s.params.nSlaves →
    (v.toNat % 256 = 255 ∨ v.toNat / 256 % 256 = 255 →
      perform (.write (BitVec.ofNat 12 (0x500 + 4 * i)) 4 v) s = { s with
        errKind := s.errKind ||| 0x080
        lastCause := 8
        errInfo := BitVec.ofNat 16 (0x500 + 4 * i) }) ∧
    (v.toNat % 256 ≠ 255 → v.toNat / 256 % 256 ≠ 255 →
      ∃ t, perform (.write (BitVec.ofNat 12 (0x500 + 4 * i)) 4 v) s = t ∧
        t = { s with mem := t.mem } ∧
        (∀ k < 3, t.readByte (0x500 + 4 * i + k) = BitVec.ofNat 8 (v.toNat / 2 ^ (8 * k))) ∧
        t.readByte (0x503 + 4 * i) = 0 ∧
        ∀ a, (∀ k < 4, a ≠ 0x500 + 4 * i + k) → t.readByte a = s.readByte a)

/-- 60_exceptions.md R145 and R151, 10_state.md R17 and R18: the writes that clear, at any time. That no such
write is a refused access, whatever bits it sets, is the model's choice (log 29). -/
def Obligations.ClearingWrites : Prop :=
  ∀ (s : State) (v : Word),
    (let kept : BitVec 12 := s.errKind &&& ~~~(BitVec.ofNat 12 (v.toNat / 2))
     perform (.write 0x008 4 v) s = { s with
       errKind := kept
       lastCause := if kept = 0 then 0 else s.lastCause
       errInfo := if kept = 0 then 0 else s.errInfo }) ∧
    perform (.write 0x004 4 v) s =
      { s with done := if v.toNat / 2 % 2 = 1 then false else s.done }

/-! ## Errors, timeouts and resets -/

/-- 60_exceptions.md R144 and R145: the codes of the twelve error kinds; recording the kind of code `k`
sets bit `k` of `ERR`, the last cause `k` and the info, and nothing else. -/
def Obligations.RecordingAnError : Prop :=
  (ErrorKind.desync.code = 1 ∧ ErrorKind.timeout.code = 2 ∧ ErrorKind.unknownId.code = 3 ∧
    ErrorKind.checksum.code = 4 ∧ ErrorKind.range.code = 5 ∧ ErrorKind.nest.code = 6 ∧
    ErrorKind.unbal.code = 7 ∧ ErrorKind.badArg.code = 8 ∧ ErrorKind.busy.code = 9 ∧
    ErrorKind.len.code = 10 ∧ ErrorKind.illegal.code = 11 ∧ ErrorKind.addr.code = 12) ∧
  ∀ (s : State) (k : ErrorKind) (info : Half),
    s.record k info = { s with
      errKind := (s.record k info).errKind
      lastCause := BitVec.ofNat 8 k.code
      errInfo := info } ∧
    ∀ n, (s.record k info).errWord.getLsbD n =
      (if n = k.code then true
        else if n < 24 then s.errWord.getLsbD n else k.code.testBit (n - 24))

/-- 20_memory.md R57: a wait for a host byte may end in `E_TIMEOUT` with `RX_TMO_EN` set, and only
then; a timeout has no effect at another time (log 20). A bracket the waiting operation did not open
stays open (60_exceptions.md R149). -/
def Obligations.ReceiveTimeout : Prop :=
  ∀ s : State,
    (s.waiting = true → s.ctrl.rxTmoEn = true →
      (s.bracket = .closed ∨ ∀ r, s.seq = .running r → r.loc.ownBracket = false) →
      perform .timeout s = { refusal s .timeout 0 with seq := .idle }) ∧
    (s.waiting = false ∨ s.ctrl.rxTmoEn = false → perform .timeout s = s)

/-- 70_reset_and_hazards.md R160: what the block reads as after power-on reset, with the default 24
slaves and muscle base 39 (log 9); and the 24 slave peers in their launch state (46_slave_peer.md R124),
which the spec gives as a premise and `State.reset` takes (log 23). -/
def Obligations.ResetValues : Prop :=
  State.reset.registerWord 0x000 = 0x00000E02 ∧ State.reset.registerWord 0x004 = 0x00FF0000 ∧
    State.reset.registerWord 0x008 = 0 ∧ State.reset.registerWord 0x010 = 0 ∧
    State.reset.registerWord 0x014 = 0x00000101 ∧ State.reset.registerWord 0x018 = 0 ∧
    State.reset.registerWord 0x01C = 0 ∧ State.reset.registerWord 0x020 = 0 ∧
    State.reset.registerWord 0x024 = 0x08262618 ∧ State.reset.registerWord 0x028 = 0 ∧
    (∀ i < 24, State.reset.readByte (0x500 + 4 * i) = BitVec.ofNat 8 (i + 1) ∧
      State.reset.readByte (0x501 + 4 * i) = BitVec.ofNat 8 (39 + i) ∧
      State.reset.readByte (0x502 + 4 * i) = BitVec.ofNat 8 (i / 2)) ∧
    (∀ off, off < 0x500 ∨ 0x560 ≤ off → State.reset.readByte off = 0) ∧
    State.reset.cs = .released ∧ State.reset.muxL = 0 ∧ State.reset.muxU = 0 ∧
    State.reset.irq = false ∧ State.reset.seq = .idle ∧ State.reset.bracket = .closed ∧
    State.reset.window = [0, 0] ∧ State.reset.lastByteEnd = none ∧ State.reset.rx = [] ∧
    State.reset.tx = [] ∧ State.reset.peers.length = 24 ∧
    ∀ i < 24, ∃ p, State.reset.peers[i]? = some p ∧ p.spiIndex = 0 ∧
      p.maxSpiIndex = State.reset.params.initLen ∧ p.pendingLen = State.reset.params.initLen ∧
      p.commandId = 0 ∧ p.sensorId = 0 ∧ p.staged = [] ∧ p.rxLo = 0 ∧ p.desired = 0

/-- 70_reset_and_hazards.md R159: power-on reset puts the block in its reset state and leaves the slave
peers; of the model's own fields, the draws, the time and the history go on (log 18). -/
def Obligations.PowerOnReset : Prop :=
  ∀ s : State, perform .powerOn s = { State.reset with
    params := s.params
    peers := s.peers
    draws := s.draws
    now := s.now
    settledAt := s.now
    moves := s.moves
    bus := if s.bracket = .closed then s.bus else s.bus ++ [.released] }
end

