-- ==== Sys2Proof/Laws/State.lean ====
section
/-! SUPPORT. What each named update of the state does to each field: one lemma per field per update, so
that no later proof unfolds a record update. -/

namespace Sys2Proof.Machine

variable (s : State)

@[simp] theorem State.record_params (k : ErrorKind) (info : Half) :
    (s.record k info).params = s.params := rfl
@[simp] theorem State.record_ctrl (k : ErrorKind) (info : Half) :
    (s.record k info).ctrl = s.ctrl := rfl
@[simp] theorem State.record_done (k : ErrorKind) (info : Half) :
    (s.record k info).done = s.done := rfl
@[simp] theorem State.record_errKind (k : ErrorKind) (info : Half) :
    (s.record k info).errKind = s.errKind ||| k.mask := rfl
@[simp] theorem State.record_lastCause (k : ErrorKind) (info : Half) :
    (s.record k info).lastCause = BitVec.ofNat 8 k.code := rfl
@[simp] theorem State.record_errInfo (k : ErrorKind) (info : Half) :
    (s.record k info).errInfo = info := rfl
@[simp] theorem State.record_res0 (k : ErrorKind) (info : Half) :
    (s.record k info).res0 = s.res0 := rfl
@[simp] theorem State.record_res1 (k : ErrorKind) (info : Half) :
    (s.record k info).res1 = s.res1 := rfl
@[simp] theorem State.record_commandId (k : ErrorKind) (info : Half) :
    (s.record k info).commandId = s.commandId := rfl
@[simp] theorem State.record_sensorId (k : ErrorKind) (info : Half) :
    (s.record k info).sensorId = s.sensorId := rfl
@[simp] theorem State.record_unkCnt (k : ErrorKind) (info : Half) :
    (s.record k info).unkCnt = s.unkCnt := rfl
@[simp] theorem State.record_syncLim (k : ErrorKind) (info : Half) :
    (s.record k info).syncLim = s.syncLim := rfl
@[simp] theorem State.record_dac (k : ErrorKind) (info : Half) :
    (s.record k info).dac = s.dac := rfl
@[simp] theorem State.record_muxL (k : ErrorKind) (info : Half) :
    (s.record k info).muxL = s.muxL := rfl
@[simp] theorem State.record_muxU (k : ErrorKind) (info : Half) :
    (s.record k info).muxU = s.muxU := rfl
@[simp] theorem State.record_cs (k : ErrorKind) (info : Half) : (s.record k info).cs = s.cs := rfl
@[simp] theorem State.record_bracket (k : ErrorKind) (info : Half) :
    (s.record k info).bracket = s.bracket := rfl
@[simp] theorem State.record_seq (k : ErrorKind) (info : Half) :
    (s.record k info).seq = s.seq := rfl
@[simp] theorem State.record_window (k : ErrorKind) (info : Half) :
    (s.record k info).window = s.window := rfl
@[simp] theorem State.record_lastByteEnd (k : ErrorKind) (info : Half) :
    (s.record k info).lastByteEnd = s.lastByteEnd := rfl
@[simp] theorem State.record_rx (k : ErrorKind) (info : Half) : (s.record k info).rx = s.rx := rfl
@[simp] theorem State.record_tx (k : ErrorKind) (info : Half) : (s.record k info).tx = s.tx := rfl
@[simp] theorem State.record_mem (k : ErrorKind) (info : Half) :
    (s.record k info).mem = s.mem := rfl
@[simp] theorem State.record_peers (k : ErrorKind) (info : Half) :
    (s.record k info).peers = s.peers := rfl
@[simp] theorem State.record_readData (k : ErrorKind) (info : Half) :
    (s.record k info).readData = s.readData := rfl
@[simp] theorem State.record_now (k : ErrorKind) (info : Half) :
    (s.record k info).now = s.now := rfl
@[simp] theorem State.record_settledAt (k : ErrorKind) (info : Half) :
    (s.record k info).settledAt = s.settledAt := rfl
@[simp] theorem State.record_draws (k : ErrorKind) (info : Half) :
    (s.record k info).draws = s.draws := rfl
@[simp] theorem State.record_bus (k : ErrorKind) (info : Half) :
    (s.record k info).bus = s.bus := rfl
@[simp] theorem State.record_moves (k : ErrorKind) (info : Half) :
    (s.record k info).moves = s.moves := rfl

@[simp] theorem State.endNow_params : (s.endNow).params = s.params := rfl
@[simp] theorem State.endNow_ctrl : (s.endNow).ctrl = s.ctrl := rfl
@[simp] theorem State.endNow_done : (s.endNow).done = s.done := rfl
@[simp] theorem State.endNow_errKind : (s.endNow).errKind = s.errKind := rfl
@[simp] theorem State.endNow_lastCause : (s.endNow).lastCause = s.lastCause := rfl
@[simp] theorem State.endNow_errInfo : (s.endNow).errInfo = s.errInfo := rfl
@[simp] theorem State.endNow_res0 : (s.endNow).res0 = s.res0 := rfl
@[simp] theorem State.endNow_res1 : (s.endNow).res1 = s.res1 := rfl
@[simp] theorem State.endNow_commandId : (s.endNow).commandId = s.commandId := rfl
@[simp] theorem State.endNow_sensorId : (s.endNow).sensorId = s.sensorId := rfl
@[simp] theorem State.endNow_unkCnt : (s.endNow).unkCnt = s.unkCnt := rfl
@[simp] theorem State.endNow_syncLim : (s.endNow).syncLim = s.syncLim := rfl
@[simp] theorem State.endNow_dac : (s.endNow).dac = s.dac := rfl
@[simp] theorem State.endNow_muxL : (s.endNow).muxL = s.muxL := rfl
@[simp] theorem State.endNow_muxU : (s.endNow).muxU = s.muxU := rfl
@[simp] theorem State.endNow_cs : (s.endNow).cs = .released := rfl
@[simp] theorem State.endNow_bracket : (s.endNow).bracket = .closed := rfl
@[simp] theorem State.endNow_seq : (s.endNow).seq = s.seq := rfl
@[simp] theorem State.endNow_window : (s.endNow).window = s.window := rfl
@[simp] theorem State.endNow_lastByteEnd : (s.endNow).lastByteEnd = s.lastByteEnd := rfl
@[simp] theorem State.endNow_rx : (s.endNow).rx = s.rx := rfl
@[simp] theorem State.endNow_tx : (s.endNow).tx = s.tx := rfl
@[simp] theorem State.endNow_mem : (s.endNow).mem = s.mem := rfl
@[simp] theorem State.endNow_peers : (s.endNow).peers = s.peers := rfl
@[simp] theorem State.endNow_readData : (s.endNow).readData = s.readData := rfl
@[simp] theorem State.endNow_now : (s.endNow).now = s.now := rfl
@[simp] theorem State.endNow_settledAt : (s.endNow).settledAt = s.settledAt := rfl
@[simp] theorem State.endNow_draws : (s.endNow).draws = s.draws := rfl
@[simp] theorem State.endNow_bus : (s.endNow).bus = s.bus ++ [.released] := rfl
@[simp] theorem State.endNow_moves : (s.endNow).moves = s.moves := rfl

@[simp] theorem State.finish_params : (s.finish).params = s.params := rfl
@[simp] theorem State.finish_ctrl : (s.finish).ctrl = s.ctrl := rfl
@[simp] theorem State.finish_done : (s.finish).done = true := rfl
@[simp] theorem State.finish_errKind : (s.finish).errKind = s.errKind := rfl
@[simp] theorem State.finish_lastCause : (s.finish).lastCause = s.lastCause := rfl
@[simp] theorem State.finish_errInfo : (s.finish).errInfo = s.errInfo := rfl
@[simp] theorem State.finish_res0 : (s.finish).res0 = s.res0 := rfl
@[simp] theorem State.finish_res1 : (s.finish).res1 = s.res1 := rfl
@[simp] theorem State.finish_commandId : (s.finish).commandId = s.commandId := rfl
@[simp] theorem State.finish_sensorId : (s.finish).sensorId = s.sensorId := rfl
@[simp] theorem State.finish_unkCnt : (s.finish).unkCnt = s.unkCnt := rfl
@[simp] theorem State.finish_syncLim : (s.finish).syncLim = s.syncLim := rfl
@[simp] theorem State.finish_dac : (s.finish).dac = s.dac := rfl
@[simp] theorem State.finish_muxL : (s.finish).muxL = s.muxL := rfl
@[simp] theorem State.finish_muxU : (s.finish).muxU = s.muxU := rfl
@[simp] theorem State.finish_cs : (s.finish).cs = s.cs := rfl
@[simp] theorem State.finish_bracket : (s.finish).bracket = s.bracket := rfl
@[simp] theorem State.finish_seq : (s.finish).seq = .idle := rfl
@[simp] theorem State.finish_window : (s.finish).window = s.window := rfl
@[simp] theorem State.finish_lastByteEnd : (s.finish).lastByteEnd = s.lastByteEnd := rfl
@[simp] theorem State.finish_rx : (s.finish).rx = s.rx := rfl
@[simp] theorem State.finish_tx : (s.finish).tx = s.tx := rfl
@[simp] theorem State.finish_mem : (s.finish).mem = s.mem := rfl
@[simp] theorem State.finish_peers : (s.finish).peers = s.peers := rfl
@[simp] theorem State.finish_readData : (s.finish).readData = s.readData := rfl
@[simp] theorem State.finish_now : (s.finish).now = s.now := rfl
@[simp] theorem State.finish_settledAt : (s.finish).settledAt = s.settledAt := rfl
@[simp] theorem State.finish_draws : (s.finish).draws = s.draws := rfl
@[simp] theorem State.finish_bus : (s.finish).bus = s.bus := rfl
@[simp] theorem State.finish_moves : (s.finish).moves = s.moves := rfl

@[simp] theorem State.setMux_params (ch : BitVec 6) : (s.setMux ch).params = s.params := rfl
@[simp] theorem State.setMux_ctrl (ch : BitVec 6) : (s.setMux ch).ctrl = s.ctrl := rfl
@[simp] theorem State.setMux_done (ch : BitVec 6) : (s.setMux ch).done = s.done := rfl
@[simp] theorem State.setMux_errKind (ch : BitVec 6) : (s.setMux ch).errKind = s.errKind := rfl
@[simp] theorem State.setMux_lastCause (ch : BitVec 6) :
    (s.setMux ch).lastCause = s.lastCause := rfl
@[simp] theorem State.setMux_errInfo (ch : BitVec 6) : (s.setMux ch).errInfo = s.errInfo := rfl
@[simp] theorem State.setMux_res0 (ch : BitVec 6) : (s.setMux ch).res0 = s.res0 := rfl
@[simp] theorem State.setMux_res1 (ch : BitVec 6) : (s.setMux ch).res1 = s.res1 := rfl
@[simp] theorem State.setMux_commandId (ch : BitVec 6) :
    (s.setMux ch).commandId = s.commandId := rfl
@[simp] theorem State.setMux_sensorId (ch : BitVec 6) : (s.setMux ch).sensorId = s.sensorId := rfl
@[simp] theorem State.setMux_unkCnt (ch : BitVec 6) : (s.setMux ch).unkCnt = s.unkCnt := rfl
@[simp] theorem State.setMux_syncLim (ch : BitVec 6) : (s.setMux ch).syncLim = s.syncLim := rfl
@[simp] theorem State.setMux_dac (ch : BitVec 6) : (s.setMux ch).dac = s.dac := rfl
@[simp] theorem State.setMux_muxL (ch : BitVec 6) : (s.setMux ch).muxL = ch.extractLsb' 0 3 := rfl
@[simp] theorem State.setMux_muxU (ch : BitVec 6) : (s.setMux ch).muxU = ch.extractLsb' 3 3 := rfl
@[simp] theorem State.setMux_cs (ch : BitVec 6) : (s.setMux ch).cs = s.cs := rfl
@[simp] theorem State.setMux_bracket (ch : BitVec 6) : (s.setMux ch).bracket = s.bracket := rfl
@[simp] theorem State.setMux_seq (ch : BitVec 6) : (s.setMux ch).seq = s.seq := rfl
@[simp] theorem State.setMux_window (ch : BitVec 6) : (s.setMux ch).window = s.window := rfl
@[simp] theorem State.setMux_lastByteEnd (ch : BitVec 6) :
    (s.setMux ch).lastByteEnd = s.lastByteEnd := rfl
@[simp] theorem State.setMux_rx (ch : BitVec 6) : (s.setMux ch).rx = s.rx := rfl
@[simp] theorem State.setMux_tx (ch : BitVec 6) : (s.setMux ch).tx = s.tx := rfl
@[simp] theorem State.setMux_mem (ch : BitVec 6) : (s.setMux ch).mem = s.mem := rfl
@[simp] theorem State.setMux_peers (ch : BitVec 6) : (s.setMux ch).peers = s.peers := rfl
@[simp] theorem State.setMux_readData (ch : BitVec 6) : (s.setMux ch).readData = s.readData := rfl
@[simp] theorem State.setMux_now (ch : BitVec 6) : (s.setMux ch).now = s.now := rfl
@[simp] theorem State.setMux_settledAt (ch : BitVec 6) :
    (s.setMux ch).settledAt = s.now + s.params.tSettle := rfl
@[simp] theorem State.setMux_draws (ch : BitVec 6) : (s.setMux ch).draws = s.draws := rfl
@[simp] theorem State.setMux_bus (ch : BitVec 6) : (s.setMux ch).bus = s.bus := rfl
@[simp] theorem State.setMux_moves (ch : BitVec 6) : (s.setMux ch).moves = s.moves := rfl

@[simp] theorem State.settle_params : (s.settle).params = s.params := rfl
@[simp] theorem State.settle_ctrl : (s.settle).ctrl = s.ctrl := rfl
@[simp] theorem State.settle_done : (s.settle).done = s.done := rfl
@[simp] theorem State.settle_errKind : (s.settle).errKind = s.errKind := rfl
@[simp] theorem State.settle_lastCause : (s.settle).lastCause = s.lastCause := rfl
@[simp] theorem State.settle_errInfo : (s.settle).errInfo = s.errInfo := rfl
@[simp] theorem State.settle_res0 : (s.settle).res0 = s.res0 := rfl
@[simp] theorem State.settle_res1 : (s.settle).res1 = s.res1 := rfl
@[simp] theorem State.settle_commandId : (s.settle).commandId = s.commandId := rfl
@[simp] theorem State.settle_sensorId : (s.settle).sensorId = s.sensorId := rfl
@[simp] theorem State.settle_unkCnt : (s.settle).unkCnt = s.unkCnt := rfl
@[simp] theorem State.settle_syncLim : (s.settle).syncLim = s.syncLim := rfl
@[simp] theorem State.settle_dac : (s.settle).dac = s.dac := rfl
@[simp] theorem State.settle_muxL : (s.settle).muxL = s.muxL := rfl
@[simp] theorem State.settle_muxU : (s.settle).muxU = s.muxU := rfl
@[simp] theorem State.settle_cs : (s.settle).cs = s.cs := rfl
@[simp] theorem State.settle_bracket : (s.settle).bracket = s.bracket := rfl
@[simp] theorem State.settle_seq : (s.settle).seq = s.seq := rfl
@[simp] theorem State.settle_window : (s.settle).window = s.window := rfl
@[simp] theorem State.settle_lastByteEnd : (s.settle).lastByteEnd = s.lastByteEnd := rfl
@[simp] theorem State.settle_rx : (s.settle).rx = s.rx := rfl
@[simp] theorem State.settle_tx : (s.settle).tx = s.tx := rfl
@[simp] theorem State.settle_mem : (s.settle).mem = s.mem := rfl
@[simp] theorem State.settle_peers : (s.settle).peers = s.peers := rfl
@[simp] theorem State.settle_readData : (s.settle).readData = s.readData := rfl
@[simp] theorem State.settle_now : (s.settle).now = s.now + s.params.tSettle := rfl
@[simp] theorem State.settle_settledAt : (s.settle).settledAt = s.settledAt := rfl
@[simp] theorem State.settle_draws : (s.settle).draws = s.draws := rfl
@[simp] theorem State.settle_bus : (s.settle).bus = s.bus := rfl
@[simp] theorem State.settle_moves : (s.settle).moves = s.moves := rfl

@[simp] theorem State.assertCs_params (i : Nat) : (s.assertCs i).params = s.params := rfl
@[simp] theorem State.assertCs_ctrl (i : Nat) : (s.assertCs i).ctrl = s.ctrl := rfl
@[simp] theorem State.assertCs_done (i : Nat) : (s.assertCs i).done = s.done := rfl
@[simp] theorem State.assertCs_errKind (i : Nat) : (s.assertCs i).errKind = s.errKind := rfl
@[simp] theorem State.assertCs_lastCause (i : Nat) : (s.assertCs i).lastCause = s.lastCause := rfl
@[simp] theorem State.assertCs_errInfo (i : Nat) : (s.assertCs i).errInfo = s.errInfo := rfl
@[simp] theorem State.assertCs_res0 (i : Nat) : (s.assertCs i).res0 = s.res0 := rfl
@[simp] theorem State.assertCs_res1 (i : Nat) : (s.assertCs i).res1 = s.res1 := rfl
@[simp] theorem State.assertCs_commandId (i : Nat) : (s.assertCs i).commandId = s.commandId := rfl
@[simp] theorem State.assertCs_sensorId (i : Nat) : (s.assertCs i).sensorId = s.sensorId := rfl
@[simp] theorem State.assertCs_unkCnt (i : Nat) : (s.assertCs i).unkCnt = s.unkCnt := rfl
@[simp] theorem State.assertCs_syncLim (i : Nat) : (s.assertCs i).syncLim = s.syncLim := rfl
@[simp] theorem State.assertCs_dac (i : Nat) : (s.assertCs i).dac = s.dac := rfl
@[simp] theorem State.assertCs_muxL (i : Nat) : (s.assertCs i).muxL = s.muxL := rfl
@[simp] theorem State.assertCs_muxU (i : Nat) : (s.assertCs i).muxU = s.muxU := rfl
@[simp] theorem State.assertCs_cs (i : Nat) : (s.assertCs i).cs = .low := rfl
@[simp] theorem State.assertCs_bracket (i : Nat) : (s.assertCs i).bracket = .opened i := rfl
@[simp] theorem State.assertCs_seq (i : Nat) : (s.assertCs i).seq = s.seq := rfl
@[simp] theorem State.assertCs_window (i : Nat) : (s.assertCs i).window = s.window := rfl
@[simp] theorem State.assertCs_lastByteEnd (i : Nat) : (s.assertCs i).lastByteEnd = none := rfl
@[simp] theorem State.assertCs_rx (i : Nat) : (s.assertCs i).rx = s.rx := rfl
@[simp] theorem State.assertCs_tx (i : Nat) : (s.assertCs i).tx = s.tx := rfl
@[simp] theorem State.assertCs_mem (i : Nat) : (s.assertCs i).mem = s.mem := rfl
@[simp] theorem State.assertCs_peers (i : Nat) : (s.assertCs i).peers = s.peers := rfl
@[simp] theorem State.assertCs_readData (i : Nat) : (s.assertCs i).readData = s.readData := rfl
@[simp] theorem State.assertCs_now (i : Nat) : (s.assertCs i).now = s.now := rfl
@[simp] theorem State.assertCs_settledAt (i : Nat) : (s.assertCs i).settledAt = s.settledAt := rfl
@[simp] theorem State.assertCs_draws (i : Nat) : (s.assertCs i).draws = s.draws := rfl
@[simp] theorem State.assertCs_bus (i : Nat) :
    (s.assertCs i).bus = s.bus ++ [.asserted s.muxCh] := rfl
@[simp] theorem State.assertCs_moves (i : Nat) : (s.assertCs i).moves = s.moves := rfl

@[simp] theorem State.raiseCs_params : (s.raiseCs).params = s.params := rfl
@[simp] theorem State.raiseCs_ctrl : (s.raiseCs).ctrl = s.ctrl := rfl
@[simp] theorem State.raiseCs_done : (s.raiseCs).done = s.done := rfl
@[simp] theorem State.raiseCs_errKind : (s.raiseCs).errKind = s.errKind := rfl
@[simp] theorem State.raiseCs_lastCause : (s.raiseCs).lastCause = s.lastCause := rfl
@[simp] theorem State.raiseCs_errInfo : (s.raiseCs).errInfo = s.errInfo := rfl
@[simp] theorem State.raiseCs_res0 : (s.raiseCs).res0 = s.res0 := rfl
@[simp] theorem State.raiseCs_res1 : (s.raiseCs).res1 = s.res1 := rfl
@[simp] theorem State.raiseCs_commandId : (s.raiseCs).commandId = s.commandId := rfl
@[simp] theorem State.raiseCs_sensorId : (s.raiseCs).sensorId = s.sensorId := rfl
@[simp] theorem State.raiseCs_unkCnt : (s.raiseCs).unkCnt = s.unkCnt := rfl
@[simp] theorem State.raiseCs_syncLim : (s.raiseCs).syncLim = s.syncLim := rfl
@[simp] theorem State.raiseCs_dac : (s.raiseCs).dac = s.dac := rfl
@[simp] theorem State.raiseCs_muxL : (s.raiseCs).muxL = s.muxL := rfl
@[simp] theorem State.raiseCs_muxU : (s.raiseCs).muxU = s.muxU := rfl
@[simp] theorem State.raiseCs_cs : (s.raiseCs).cs = .high := rfl
@[simp] theorem State.raiseCs_bracket : (s.raiseCs).bracket = s.bracket := rfl
@[simp] theorem State.raiseCs_seq : (s.raiseCs).seq = s.seq := rfl
@[simp] theorem State.raiseCs_window : (s.raiseCs).window = s.window := rfl
@[simp] theorem State.raiseCs_lastByteEnd : (s.raiseCs).lastByteEnd = s.lastByteEnd := rfl
@[simp] theorem State.raiseCs_rx : (s.raiseCs).rx = s.rx := rfl
@[simp] theorem State.raiseCs_tx : (s.raiseCs).tx = s.tx := rfl
@[simp] theorem State.raiseCs_mem : (s.raiseCs).mem = s.mem := rfl
@[simp] theorem State.raiseCs_peers : (s.raiseCs).peers = s.peers := rfl
@[simp] theorem State.raiseCs_readData : (s.raiseCs).readData = s.readData := rfl
@[simp] theorem State.raiseCs_now : (s.raiseCs).now = s.now := rfl
@[simp] theorem State.raiseCs_settledAt : (s.raiseCs).settledAt = s.settledAt := rfl
@[simp] theorem State.raiseCs_draws : (s.raiseCs).draws = s.draws := rfl
@[simp] theorem State.raiseCs_bus : (s.raiseCs).bus = s.bus := rfl
@[simp] theorem State.raiseCs_moves : (s.raiseCs).moves = s.moves := rfl

@[simp] theorem State.exchange_params (out : Byte) : (s.exchange out).params = s.params := rfl
@[simp] theorem State.exchange_ctrl (out : Byte) : (s.exchange out).ctrl = s.ctrl := rfl
@[simp] theorem State.exchange_done (out : Byte) : (s.exchange out).done = s.done := rfl
@[simp] theorem State.exchange_errKind (out : Byte) : (s.exchange out).errKind = s.errKind := rfl
@[simp] theorem State.exchange_lastCause (out : Byte) :
    (s.exchange out).lastCause = s.lastCause := rfl
@[simp] theorem State.exchange_errInfo (out : Byte) : (s.exchange out).errInfo = s.errInfo := rfl
@[simp] theorem State.exchange_res0 (out : Byte) : (s.exchange out).res0 = s.res0 := rfl
@[simp] theorem State.exchange_res1 (out : Byte) : (s.exchange out).res1 = s.res1 := rfl
@[simp] theorem State.exchange_commandId (out : Byte) :
    (s.exchange out).commandId = s.commandId := rfl
@[simp] theorem State.exchange_sensorId (out : Byte) : (s.exchange out).sensorId = s.sensorId := rfl
@[simp] theorem State.exchange_unkCnt (out : Byte) : (s.exchange out).unkCnt = s.unkCnt := rfl
@[simp] theorem State.exchange_syncLim (out : Byte) : (s.exchange out).syncLim = s.syncLim := rfl
@[simp] theorem State.exchange_dac (out : Byte) : (s.exchange out).dac = s.dac := rfl
@[simp] theorem State.exchange_muxL (out : Byte) : (s.exchange out).muxL = s.muxL := rfl
@[simp] theorem State.exchange_muxU (out : Byte) : (s.exchange out).muxU = s.muxU := rfl
@[simp] theorem State.exchange_cs (out : Byte) : (s.exchange out).cs = s.cs := rfl
@[simp] theorem State.exchange_bracket (out : Byte) : (s.exchange out).bracket = s.bracket := rfl
@[simp] theorem State.exchange_seq (out : Byte) : (s.exchange out).seq = s.seq := rfl
@[simp] theorem State.exchange_window (out : Byte) : (s.exchange out).window = s.window := rfl
@[simp] theorem State.exchange_lastByteEnd (out : Byte) :
    (s.exchange out).lastByteEnd = some s.byteStart := rfl
@[simp] theorem State.exchange_rx (out : Byte) : (s.exchange out).rx = s.rx := rfl
@[simp] theorem State.exchange_tx (out : Byte) : (s.exchange out).tx = s.tx := rfl
@[simp] theorem State.exchange_mem (out : Byte) : (s.exchange out).mem = s.mem := rfl
@[simp] theorem State.exchange_peers (out : Byte) :
    (s.exchange out).peers = (s.busReply out).2.1 := rfl
@[simp] theorem State.exchange_readData (out : Byte) : (s.exchange out).readData = s.readData := rfl
@[simp] theorem State.exchange_now (out : Byte) : (s.exchange out).now = s.byteStart := rfl
@[simp] theorem State.exchange_settledAt (out : Byte) :
    (s.exchange out).settledAt = s.settledAt := rfl
@[simp] theorem State.exchange_draws (out : Byte) :
    (s.exchange out).draws = (s.busReply out).2.2 := rfl
@[simp] theorem State.exchange_bus (out : Byte) :
    (s.exchange out).bus = s.bus ++ [.byte out (s.replyByte out)] := rfl
@[simp] theorem State.exchange_moves (out : Byte) : (s.exchange out).moves = s.moves := rfl

@[simp] theorem State.setResult_params (r0 r1 : Half) : (s.setResult r0 r1).params = s.params := rfl
@[simp] theorem State.setResult_ctrl (r0 r1 : Half) : (s.setResult r0 r1).ctrl = s.ctrl := rfl
@[simp] theorem State.setResult_done (r0 r1 : Half) : (s.setResult r0 r1).done = s.done := rfl
@[simp] theorem State.setResult_errKind (r0 r1 : Half) :
    (s.setResult r0 r1).errKind = s.errKind := rfl
@[simp] theorem State.setResult_lastCause (r0 r1 : Half) :
    (s.setResult r0 r1).lastCause = s.lastCause := rfl
@[simp] theorem State.setResult_errInfo (r0 r1 : Half) :
    (s.setResult r0 r1).errInfo = s.errInfo := rfl
@[simp] theorem State.setResult_res0 (r0 r1 : Half) : (s.setResult r0 r1).res0 = r0 := rfl
@[simp] theorem State.setResult_res1 (r0 r1 : Half) : (s.setResult r0 r1).res1 = r1 := rfl
@[simp] theorem State.setResult_commandId (r0 r1 : Half) :
    (s.setResult r0 r1).commandId = s.commandId := rfl
@[simp] theorem State.setResult_sensorId (r0 r1 : Half) :
    (s.setResult r0 r1).sensorId = s.sensorId := rfl
@[simp] theorem State.setResult_unkCnt (r0 r1 : Half) : (s.setResult r0 r1).unkCnt = s.unkCnt := rfl
@[simp] theorem State.setResult_syncLim (r0 r1 : Half) :
    (s.setResult r0 r1).syncLim = s.syncLim := rfl
@[simp] theorem State.setResult_dac (r0 r1 : Half) : (s.setResult r0 r1).dac = s.dac := rfl
@[simp] theorem State.setResult_muxL (r0 r1 : Half) : (s.setResult r0 r1).muxL = s.muxL := rfl
@[simp] theorem State.setResult_muxU (r0 r1 : Half) : (s.setResult r0 r1).muxU = s.muxU := rfl
@[simp] theorem State.setResult_cs (r0 r1 : Half) : (s.setResult r0 r1).cs = s.cs := rfl
@[simp] theorem State.setResult_bracket (r0 r1 : Half) :
    (s.setResult r0 r1).bracket = s.bracket := rfl
@[simp] theorem State.setResult_seq (r0 r1 : Half) : (s.setResult r0 r1).seq = s.seq := rfl
@[simp] theorem State.setResult_window (r0 r1 : Half) : (s.setResult r0 r1).window = s.window := rfl
@[simp] theorem State.setResult_lastByteEnd (r0 r1 : Half) :
    (s.setResult r0 r1).lastByteEnd = s.lastByteEnd := rfl
@[simp] theorem State.setResult_rx (r0 r1 : Half) : (s.setResult r0 r1).rx = s.rx := rfl
@[simp] theorem State.setResult_tx (r0 r1 : Half) : (s.setResult r0 r1).tx = s.tx := rfl
@[simp] theorem State.setResult_mem (r0 r1 : Half) : (s.setResult r0 r1).mem = s.mem := rfl
@[simp] theorem State.setResult_peers (r0 r1 : Half) : (s.setResult r0 r1).peers = s.peers := rfl
@[simp] theorem State.setResult_readData (r0 r1 : Half) :
    (s.setResult r0 r1).readData = s.readData := rfl
@[simp] theorem State.setResult_now (r0 r1 : Half) : (s.setResult r0 r1).now = s.now := rfl
@[simp] theorem State.setResult_settledAt (r0 r1 : Half) :
    (s.setResult r0 r1).settledAt = s.settledAt := rfl
@[simp] theorem State.setResult_draws (r0 r1 : Half) : (s.setResult r0 r1).draws = s.draws := rfl
@[simp] theorem State.setResult_bus (r0 r1 : Half) : (s.setResult r0 r1).bus = s.bus := rfl
@[simp] theorem State.setResult_moves (r0 r1 : Half) : (s.setResult r0 r1).moves = s.moves := rfl

@[simp] theorem State.writeByte_params (off : Nat) (v : Byte) :
    (s.writeByte off v).params = s.params := rfl
@[simp] theorem State.writeByte_ctrl (off : Nat) (v : Byte) :
    (s.writeByte off v).ctrl = s.ctrl := rfl
@[simp] theorem State.writeByte_done (off : Nat) (v : Byte) :
    (s.writeByte off v).done = s.done := rfl
@[simp] theorem State.writeByte_errKind (off : Nat) (v : Byte) :
    (s.writeByte off v).errKind = s.errKind := rfl
@[simp] theorem State.writeByte_lastCause (off : Nat) (v : Byte) :
    (s.writeByte off v).lastCause = s.lastCause := rfl
@[simp] theorem State.writeByte_errInfo (off : Nat) (v : Byte) :
    (s.writeByte off v).errInfo = s.errInfo := rfl
@[simp] theorem State.writeByte_res0 (off : Nat) (v : Byte) :
    (s.writeByte off v).res0 = s.res0 := rfl
@[simp] theorem State.writeByte_res1 (off : Nat) (v : Byte) :
    (s.writeByte off v).res1 = s.res1 := rfl
@[simp] theorem State.writeByte_commandId (off : Nat) (v : Byte) :
    (s.writeByte off v).commandId = s.commandId := rfl
@[simp] theorem State.writeByte_sensorId (off : Nat) (v : Byte) :
    (s.writeByte off v).sensorId = s.sensorId := rfl
@[simp] theorem State.writeByte_unkCnt (off : Nat) (v : Byte) :
    (s.writeByte off v).unkCnt = s.unkCnt := rfl
@[simp] theorem State.writeByte_syncLim (off : Nat) (v : Byte) :
    (s.writeByte off v).syncLim = s.syncLim := rfl
@[simp] theorem State.writeByte_dac (off : Nat) (v : Byte) : (s.writeByte off v).dac = s.dac := rfl
@[simp] theorem State.writeByte_muxL (off : Nat) (v : Byte) :
    (s.writeByte off v).muxL = s.muxL := rfl
@[simp] theorem State.writeByte_muxU (off : Nat) (v : Byte) :
    (s.writeByte off v).muxU = s.muxU := rfl
@[simp] theorem State.writeByte_cs (off : Nat) (v : Byte) : (s.writeByte off v).cs = s.cs := rfl
@[simp] theorem State.writeByte_bracket (off : Nat) (v : Byte) :
    (s.writeByte off v).bracket = s.bracket := rfl
@[simp] theorem State.writeByte_seq (off : Nat) (v : Byte) : (s.writeByte off v).seq = s.seq := rfl
@[simp] theorem State.writeByte_window (off : Nat) (v : Byte) :
    (s.writeByte off v).window = s.window := rfl
@[simp] theorem State.writeByte_lastByteEnd (off : Nat) (v : Byte) :
    (s.writeByte off v).lastByteEnd = s.lastByteEnd := rfl
@[simp] theorem State.writeByte_rx (off : Nat) (v : Byte) : (s.writeByte off v).rx = s.rx := rfl
@[simp] theorem State.writeByte_tx (off : Nat) (v : Byte) : (s.writeByte off v).tx = s.tx := rfl
@[simp] theorem State.writeByte_mem (off : Nat) (v : Byte) :
    (s.writeByte off v).mem = Memory.store s.params off v s.mem := rfl
@[simp] theorem State.writeByte_peers (off : Nat) (v : Byte) :
    (s.writeByte off v).peers = s.peers := rfl
@[simp] theorem State.writeByte_readData (off : Nat) (v : Byte) :
    (s.writeByte off v).readData = s.readData := rfl
@[simp] theorem State.writeByte_now (off : Nat) (v : Byte) : (s.writeByte off v).now = s.now := rfl
@[simp] theorem State.writeByte_settledAt (off : Nat) (v : Byte) :
    (s.writeByte off v).settledAt = s.settledAt := rfl
@[simp] theorem State.writeByte_draws (off : Nat) (v : Byte) :
    (s.writeByte off v).draws = s.draws := rfl
@[simp] theorem State.writeByte_bus (off : Nat) (v : Byte) : (s.writeByte off v).bus = s.bus := rfl
@[simp] theorem State.writeByte_moves (off : Nat) (v : Byte) :
    (s.writeByte off v).moves = s.moves := rfl

@[simp] theorem State.countUnknown_params : (s.countUnknown).params = s.params := rfl
@[simp] theorem State.countUnknown_ctrl : (s.countUnknown).ctrl = s.ctrl := rfl
@[simp] theorem State.countUnknown_done : (s.countUnknown).done = s.done := rfl
@[simp] theorem State.countUnknown_errKind : (s.countUnknown).errKind = s.errKind := rfl
@[simp] theorem State.countUnknown_lastCause : (s.countUnknown).lastCause = s.lastCause := rfl
@[simp] theorem State.countUnknown_errInfo : (s.countUnknown).errInfo = s.errInfo := rfl
@[simp] theorem State.countUnknown_res0 : (s.countUnknown).res0 = s.res0 := rfl
@[simp] theorem State.countUnknown_res1 : (s.countUnknown).res1 = s.res1 := rfl
@[simp] theorem State.countUnknown_commandId : (s.countUnknown).commandId = s.commandId := rfl
@[simp] theorem State.countUnknown_sensorId : (s.countUnknown).sensorId = s.sensorId := rfl
@[simp] theorem State.countUnknown_unkCnt :
    (s.countUnknown).unkCnt = if s.unkCnt = 0xFFFF then 0xFFFF else s.unkCnt + 1 := rfl
@[simp] theorem State.countUnknown_syncLim : (s.countUnknown).syncLim = s.syncLim := rfl
@[simp] theorem State.countUnknown_dac : (s.countUnknown).dac = s.dac := rfl
@[simp] theorem State.countUnknown_muxL : (s.countUnknown).muxL = s.muxL := rfl
@[simp] theorem State.countUnknown_muxU : (s.countUnknown).muxU = s.muxU := rfl
@[simp] theorem State.countUnknown_cs : (s.countUnknown).cs = s.cs := rfl
@[simp] theorem State.countUnknown_bracket : (s.countUnknown).bracket = s.bracket := rfl
@[simp] theorem State.countUnknown_seq : (s.countUnknown).seq = s.seq := rfl
@[simp] theorem State.countUnknown_window : (s.countUnknown).window = s.window := rfl
@[simp] theorem State.countUnknown_lastByteEnd : (s.countUnknown).lastByteEnd = s.lastByteEnd := rfl
@[simp] theorem State.countUnknown_rx : (s.countUnknown).rx = s.rx := rfl
@[simp] theorem State.countUnknown_tx : (s.countUnknown).tx = s.tx := rfl
@[simp] theorem State.countUnknown_mem : (s.countUnknown).mem = s.mem := rfl
@[simp] theorem State.countUnknown_peers : (s.countUnknown).peers = s.peers := rfl
@[simp] theorem State.countUnknown_readData : (s.countUnknown).readData = s.readData := rfl
@[simp] theorem State.countUnknown_now : (s.countUnknown).now = s.now := rfl
@[simp] theorem State.countUnknown_settledAt : (s.countUnknown).settledAt = s.settledAt := rfl
@[simp] theorem State.countUnknown_draws : (s.countUnknown).draws = s.draws := rfl
@[simp] theorem State.countUnknown_bus : (s.countUnknown).bus = s.bus := rfl
@[simp] theorem State.countUnknown_moves : (s.countUnknown).moves = s.moves := rfl

@[simp] theorem State.sampleAdc_params : (s.sampleAdc).params = s.params := rfl
@[simp] theorem State.sampleAdc_ctrl : (s.sampleAdc).ctrl = s.ctrl := rfl
@[simp] theorem State.sampleAdc_done : (s.sampleAdc).done = s.done := rfl
@[simp] theorem State.sampleAdc_errKind : (s.sampleAdc).errKind = s.errKind := rfl
@[simp] theorem State.sampleAdc_lastCause : (s.sampleAdc).lastCause = s.lastCause := rfl
@[simp] theorem State.sampleAdc_errInfo : (s.sampleAdc).errInfo = s.errInfo := rfl
@[simp] theorem State.sampleAdc_res0 : (s.sampleAdc).res0 = (drawTen s.draws).setWidth 16 := rfl
@[simp] theorem State.sampleAdc_res1 : (s.sampleAdc).res1 = 0 := rfl
@[simp] theorem State.sampleAdc_commandId : (s.sampleAdc).commandId = s.commandId := rfl
@[simp] theorem State.sampleAdc_sensorId : (s.sampleAdc).sensorId = s.sensorId := rfl
@[simp] theorem State.sampleAdc_unkCnt : (s.sampleAdc).unkCnt = s.unkCnt := rfl
@[simp] theorem State.sampleAdc_syncLim : (s.sampleAdc).syncLim = s.syncLim := rfl
@[simp] theorem State.sampleAdc_dac : (s.sampleAdc).dac = s.dac := rfl
@[simp] theorem State.sampleAdc_muxL : (s.sampleAdc).muxL = s.muxL := rfl
@[simp] theorem State.sampleAdc_muxU : (s.sampleAdc).muxU = s.muxU := rfl
@[simp] theorem State.sampleAdc_cs : (s.sampleAdc).cs = s.cs := rfl
@[simp] theorem State.sampleAdc_bracket : (s.sampleAdc).bracket = s.bracket := rfl
@[simp] theorem State.sampleAdc_seq : (s.sampleAdc).seq = s.seq := rfl
@[simp] theorem State.sampleAdc_window : (s.sampleAdc).window = s.window := rfl
@[simp] theorem State.sampleAdc_lastByteEnd : (s.sampleAdc).lastByteEnd = s.lastByteEnd := rfl
@[simp] theorem State.sampleAdc_rx : (s.sampleAdc).rx = s.rx := rfl
@[simp] theorem State.sampleAdc_tx : (s.sampleAdc).tx = s.tx := rfl
@[simp] theorem State.sampleAdc_mem : (s.sampleAdc).mem = s.mem := rfl
@[simp] theorem State.sampleAdc_peers : (s.sampleAdc).peers = s.peers := rfl
@[simp] theorem State.sampleAdc_readData : (s.sampleAdc).readData = s.readData := rfl
@[simp] theorem State.sampleAdc_now : (s.sampleAdc).now = s.now := rfl
@[simp] theorem State.sampleAdc_settledAt : (s.sampleAdc).settledAt = s.settledAt := rfl
@[simp] theorem State.sampleAdc_draws : (s.sampleAdc).draws = s.draws.tail := rfl
@[simp] theorem State.sampleAdc_bus : (s.sampleAdc).bus = s.bus := rfl
@[simp] theorem State.sampleAdc_moves : (s.sampleAdc).moves = s.moves := rfl

@[simp] theorem State.setDac_params (y : BitVec 12) : (s.setDac y).params = s.params := rfl
@[simp] theorem State.setDac_ctrl (y : BitVec 12) : (s.setDac y).ctrl = s.ctrl := rfl
@[simp] theorem State.setDac_done (y : BitVec 12) : (s.setDac y).done = s.done := rfl
@[simp] theorem State.setDac_errKind (y : BitVec 12) : (s.setDac y).errKind = s.errKind := rfl
@[simp] theorem State.setDac_lastCause (y : BitVec 12) : (s.setDac y).lastCause = s.lastCause := rfl
@[simp] theorem State.setDac_errInfo (y : BitVec 12) : (s.setDac y).errInfo = s.errInfo := rfl
@[simp] theorem State.setDac_res0 (y : BitVec 12) : (s.setDac y).res0 = s.res0 := rfl
@[simp] theorem State.setDac_res1 (y : BitVec 12) : (s.setDac y).res1 = s.res1 := rfl
@[simp] theorem State.setDac_commandId (y : BitVec 12) : (s.setDac y).commandId = s.commandId := rfl
@[simp] theorem State.setDac_sensorId (y : BitVec 12) : (s.setDac y).sensorId = s.sensorId := rfl
@[simp] theorem State.setDac_unkCnt (y : BitVec 12) : (s.setDac y).unkCnt = s.unkCnt := rfl
@[simp] theorem State.setDac_syncLim (y : BitVec 12) : (s.setDac y).syncLim = s.syncLim := rfl
@[simp] theorem State.setDac_dac (y : BitVec 12) : (s.setDac y).dac = y := rfl
@[simp] theorem State.setDac_muxL (y : BitVec 12) : (s.setDac y).muxL = s.muxL := rfl
@[simp] theorem State.setDac_muxU (y : BitVec 12) : (s.setDac y).muxU = s.muxU := rfl
@[simp] theorem State.setDac_cs (y : BitVec 12) : (s.setDac y).cs = s.cs := rfl
@[simp] theorem State.setDac_bracket (y : BitVec 12) : (s.setDac y).bracket = s.bracket := rfl
@[simp] theorem State.setDac_seq (y : BitVec 12) : (s.setDac y).seq = s.seq := rfl
@[simp] theorem State.setDac_window (y : BitVec 12) : (s.setDac y).window = s.window := rfl
@[simp] theorem State.setDac_lastByteEnd (y : BitVec 12) :
    (s.setDac y).lastByteEnd = s.lastByteEnd := rfl
@[simp] theorem State.setDac_rx (y : BitVec 12) : (s.setDac y).rx = s.rx := rfl
@[simp] theorem State.setDac_tx (y : BitVec 12) : (s.setDac y).tx = s.tx := rfl
@[simp] theorem State.setDac_mem (y : BitVec 12) : (s.setDac y).mem = s.mem := rfl
@[simp] theorem State.setDac_peers (y : BitVec 12) : (s.setDac y).peers = s.peers := rfl
@[simp] theorem State.setDac_readData (y : BitVec 12) : (s.setDac y).readData = s.readData := rfl
@[simp] theorem State.setDac_now (y : BitVec 12) : (s.setDac y).now = s.now := rfl
@[simp] theorem State.setDac_settledAt (y : BitVec 12) : (s.setDac y).settledAt = s.settledAt := rfl
@[simp] theorem State.setDac_draws (y : BitVec 12) : (s.setDac y).draws = s.draws := rfl
@[simp] theorem State.setDac_bus (y : BitVec 12) : (s.setDac y).bus = s.bus := rfl
@[simp] theorem State.setDac_moves (y : BitVec 12) : (s.setDac y).moves = s.moves := rfl

@[simp] theorem State.transmit_params (b : Byte) : (s.transmit b).params = s.params := rfl
@[simp] theorem State.transmit_ctrl (b : Byte) : (s.transmit b).ctrl = s.ctrl := rfl
@[simp] theorem State.transmit_done (b : Byte) : (s.transmit b).done = s.done := rfl
@[simp] theorem State.transmit_errKind (b : Byte) : (s.transmit b).errKind = s.errKind := rfl
@[simp] theorem State.transmit_lastCause (b : Byte) : (s.transmit b).lastCause = s.lastCause := rfl
@[simp] theorem State.transmit_errInfo (b : Byte) : (s.transmit b).errInfo = s.errInfo := rfl
@[simp] theorem State.transmit_res0 (b : Byte) : (s.transmit b).res0 = s.res0 := rfl
@[simp] theorem State.transmit_res1 (b : Byte) : (s.transmit b).res1 = s.res1 := rfl
@[simp] theorem State.transmit_commandId (b : Byte) : (s.transmit b).commandId = s.commandId := rfl
@[simp] theorem State.transmit_sensorId (b : Byte) : (s.transmit b).sensorId = s.sensorId := rfl
@[simp] theorem State.transmit_unkCnt (b : Byte) : (s.transmit b).unkCnt = s.unkCnt := rfl
@[simp] theorem State.transmit_syncLim (b : Byte) : (s.transmit b).syncLim = s.syncLim := rfl
@[simp] theorem State.transmit_dac (b : Byte) : (s.transmit b).dac = s.dac := rfl
@[simp] theorem State.transmit_muxL (b : Byte) : (s.transmit b).muxL = s.muxL := rfl
@[simp] theorem State.transmit_muxU (b : Byte) : (s.transmit b).muxU = s.muxU := rfl
@[simp] theorem State.transmit_cs (b : Byte) : (s.transmit b).cs = s.cs := rfl
@[simp] theorem State.transmit_bracket (b : Byte) : (s.transmit b).bracket = s.bracket := rfl
@[simp] theorem State.transmit_seq (b : Byte) : (s.transmit b).seq = s.seq := rfl
@[simp] theorem State.transmit_window (b : Byte) : (s.transmit b).window = s.window := rfl
@[simp] theorem State.transmit_lastByteEnd (b : Byte) :
    (s.transmit b).lastByteEnd = s.lastByteEnd := rfl
@[simp] theorem State.transmit_rx (b : Byte) : (s.transmit b).rx = s.rx := rfl
@[simp] theorem State.transmit_tx (b : Byte) : (s.transmit b).tx = s.tx ++ [b] := rfl
@[simp] theorem State.transmit_mem (b : Byte) : (s.transmit b).mem = s.mem := rfl
@[simp] theorem State.transmit_peers (b : Byte) : (s.transmit b).peers = s.peers := rfl
@[simp] theorem State.transmit_readData (b : Byte) : (s.transmit b).readData = s.readData := rfl
@[simp] theorem State.transmit_now (b : Byte) : (s.transmit b).now = s.now := rfl
@[simp] theorem State.transmit_settledAt (b : Byte) : (s.transmit b).settledAt = s.settledAt := rfl
@[simp] theorem State.transmit_draws (b : Byte) : (s.transmit b).draws = s.draws := rfl
@[simp] theorem State.transmit_bus (b : Byte) : (s.transmit b).bus = s.bus := rfl
@[simp] theorem State.transmit_moves (b : Byte) : (s.transmit b).moves = s.moves := rfl

@[simp] theorem State.hostSend_params (b : Byte) : (s.hostSend b).params = s.params := rfl
@[simp] theorem State.hostSend_ctrl (b : Byte) : (s.hostSend b).ctrl = s.ctrl := rfl
@[simp] theorem State.hostSend_done (b : Byte) : (s.hostSend b).done = s.done := rfl
@[simp] theorem State.hostSend_errKind (b : Byte) : (s.hostSend b).errKind = s.errKind := rfl
@[simp] theorem State.hostSend_lastCause (b : Byte) : (s.hostSend b).lastCause = s.lastCause := rfl
@[simp] theorem State.hostSend_errInfo (b : Byte) : (s.hostSend b).errInfo = s.errInfo := rfl
@[simp] theorem State.hostSend_res0 (b : Byte) : (s.hostSend b).res0 = s.res0 := rfl
@[simp] theorem State.hostSend_res1 (b : Byte) : (s.hostSend b).res1 = s.res1 := rfl
@[simp] theorem State.hostSend_commandId (b : Byte) : (s.hostSend b).commandId = s.commandId := rfl
@[simp] theorem State.hostSend_sensorId (b : Byte) : (s.hostSend b).sensorId = s.sensorId := rfl
@[simp] theorem State.hostSend_unkCnt (b : Byte) : (s.hostSend b).unkCnt = s.unkCnt := rfl
@[simp] theorem State.hostSend_syncLim (b : Byte) : (s.hostSend b).syncLim = s.syncLim := rfl
@[simp] theorem State.hostSend_dac (b : Byte) : (s.hostSend b).dac = s.dac := rfl
@[simp] theorem State.hostSend_muxL (b : Byte) : (s.hostSend b).muxL = s.muxL := rfl
@[simp] theorem State.hostSend_muxU (b : Byte) : (s.hostSend b).muxU = s.muxU := rfl
@[simp] theorem State.hostSend_cs (b : Byte) : (s.hostSend b).cs = s.cs := rfl
@[simp] theorem State.hostSend_bracket (b : Byte) : (s.hostSend b).bracket = s.bracket := rfl
@[simp] theorem State.hostSend_seq (b : Byte) : (s.hostSend b).seq = s.seq := rfl
@[simp] theorem State.hostSend_window (b : Byte) : (s.hostSend b).window = s.window := rfl
@[simp] theorem State.hostSend_lastByteEnd (b : Byte) :
    (s.hostSend b).lastByteEnd = s.lastByteEnd := rfl
@[simp] theorem State.hostSend_rx (b : Byte) : (s.hostSend b).rx = s.rx ++ [b] := rfl
@[simp] theorem State.hostSend_tx (b : Byte) : (s.hostSend b).tx = s.tx := rfl
@[simp] theorem State.hostSend_mem (b : Byte) : (s.hostSend b).mem = s.mem := rfl
@[simp] theorem State.hostSend_peers (b : Byte) : (s.hostSend b).peers = s.peers := rfl
@[simp] theorem State.hostSend_readData (b : Byte) : (s.hostSend b).readData = s.readData := rfl
@[simp] theorem State.hostSend_now (b : Byte) : (s.hostSend b).now = s.now := rfl
@[simp] theorem State.hostSend_settledAt (b : Byte) : (s.hostSend b).settledAt = s.settledAt := rfl
@[simp] theorem State.hostSend_draws (b : Byte) : (s.hostSend b).draws = s.draws := rfl
@[simp] theorem State.hostSend_bus (b : Byte) : (s.hostSend b).bus = s.bus := rfl
@[simp] theorem State.hostSend_moves (b : Byte) : (s.hostSend b).moves = s.moves := rfl

@[simp] theorem State.hostTake_params : (s.hostTake).params = s.params := rfl
@[simp] theorem State.hostTake_ctrl : (s.hostTake).ctrl = s.ctrl := rfl
@[simp] theorem State.hostTake_done : (s.hostTake).done = s.done := rfl
@[simp] theorem State.hostTake_errKind : (s.hostTake).errKind = s.errKind := rfl
@[simp] theorem State.hostTake_lastCause : (s.hostTake).lastCause = s.lastCause := rfl
@[simp] theorem State.hostTake_errInfo : (s.hostTake).errInfo = s.errInfo := rfl
@[simp] theorem State.hostTake_res0 : (s.hostTake).res0 = s.res0 := rfl
@[simp] theorem State.hostTake_res1 : (s.hostTake).res1 = s.res1 := rfl
@[simp] theorem State.hostTake_commandId : (s.hostTake).commandId = s.commandId := rfl
@[simp] theorem State.hostTake_sensorId : (s.hostTake).sensorId = s.sensorId := rfl
@[simp] theorem State.hostTake_unkCnt : (s.hostTake).unkCnt = s.unkCnt := rfl
@[simp] theorem State.hostTake_syncLim : (s.hostTake).syncLim = s.syncLim := rfl
@[simp] theorem State.hostTake_dac : (s.hostTake).dac = s.dac := rfl
@[simp] theorem State.hostTake_muxL : (s.hostTake).muxL = s.muxL := rfl
@[simp] theorem State.hostTake_muxU : (s.hostTake).muxU = s.muxU := rfl
@[simp] theorem State.hostTake_cs : (s.hostTake).cs = s.cs := rfl
@[simp] theorem State.hostTake_bracket : (s.hostTake).bracket = s.bracket := rfl
@[simp] theorem State.hostTake_seq : (s.hostTake).seq = s.seq := rfl
@[simp] theorem State.hostTake_window : (s.hostTake).window = s.window := rfl
@[simp] theorem State.hostTake_lastByteEnd : (s.hostTake).lastByteEnd = s.lastByteEnd := rfl
@[simp] theorem State.hostTake_rx : (s.hostTake).rx = s.rx := rfl
@[simp] theorem State.hostTake_tx : (s.hostTake).tx = s.tx.tail := rfl
@[simp] theorem State.hostTake_mem : (s.hostTake).mem = s.mem := rfl
@[simp] theorem State.hostTake_peers : (s.hostTake).peers = s.peers := rfl
@[simp] theorem State.hostTake_readData : (s.hostTake).readData = s.readData := rfl
@[simp] theorem State.hostTake_now : (s.hostTake).now = s.now := rfl
@[simp] theorem State.hostTake_settledAt : (s.hostTake).settledAt = s.settledAt := rfl
@[simp] theorem State.hostTake_draws : (s.hostTake).draws = s.draws := rfl
@[simp] theorem State.hostTake_bus : (s.hostTake).bus = s.bus := rfl
@[simp] theorem State.hostTake_moves : (s.hostTake).moves = s.moves := rfl

@[simp] theorem State.startSearch_params : (s.startSearch).params = s.params := rfl
@[simp] theorem State.startSearch_ctrl : (s.startSearch).ctrl = s.ctrl := rfl
@[simp] theorem State.startSearch_done : (s.startSearch).done = s.done := rfl
@[simp] theorem State.startSearch_errKind : (s.startSearch).errKind = s.errKind := rfl
@[simp] theorem State.startSearch_lastCause : (s.startSearch).lastCause = s.lastCause := rfl
@[simp] theorem State.startSearch_errInfo : (s.startSearch).errInfo = s.errInfo := rfl
@[simp] theorem State.startSearch_res0 : (s.startSearch).res0 = s.res0 := rfl
@[simp] theorem State.startSearch_res1 : (s.startSearch).res1 = s.res1 := rfl
@[simp] theorem State.startSearch_commandId : (s.startSearch).commandId = s.commandId := rfl
@[simp] theorem State.startSearch_sensorId : (s.startSearch).sensorId = s.sensorId := rfl
@[simp] theorem State.startSearch_unkCnt : (s.startSearch).unkCnt = s.unkCnt := rfl
@[simp] theorem State.startSearch_syncLim : (s.startSearch).syncLim = s.syncLim := rfl
@[simp] theorem State.startSearch_dac : (s.startSearch).dac = s.dac := rfl
@[simp] theorem State.startSearch_muxL : (s.startSearch).muxL = s.muxL := rfl
@[simp] theorem State.startSearch_muxU : (s.startSearch).muxU = s.muxU := rfl
@[simp] theorem State.startSearch_cs : (s.startSearch).cs = s.cs := rfl
@[simp] theorem State.startSearch_bracket : (s.startSearch).bracket = s.bracket := rfl
@[simp] theorem State.startSearch_seq : (s.startSearch).seq = s.seq := rfl
@[simp] theorem State.startSearch_window :
    (s.startSearch).window = List.replicate s.startLen 0 := rfl
@[simp] theorem State.startSearch_lastByteEnd : (s.startSearch).lastByteEnd = s.lastByteEnd := rfl
@[simp] theorem State.startSearch_rx : (s.startSearch).rx = s.rx := rfl
@[simp] theorem State.startSearch_tx : (s.startSearch).tx = s.tx := rfl
@[simp] theorem State.startSearch_mem : (s.startSearch).mem = s.mem := rfl
@[simp] theorem State.startSearch_peers : (s.startSearch).peers = s.peers := rfl
@[simp] theorem State.startSearch_readData : (s.startSearch).readData = s.readData := rfl
@[simp] theorem State.startSearch_now : (s.startSearch).now = s.now := rfl
@[simp] theorem State.startSearch_settledAt : (s.startSearch).settledAt = s.settledAt := rfl
@[simp] theorem State.startSearch_draws : (s.startSearch).draws = s.draws := rfl
@[simp] theorem State.startSearch_bus : (s.startSearch).bus = s.bus := rfl
@[simp] theorem State.startSearch_moves : (s.startSearch).moves = s.moves := rfl

@[simp] theorem State.shiftWindow_params (b : Byte) : (s.shiftWindow b).params = s.params := rfl
@[simp] theorem State.shiftWindow_ctrl (b : Byte) : (s.shiftWindow b).ctrl = s.ctrl := rfl
@[simp] theorem State.shiftWindow_done (b : Byte) : (s.shiftWindow b).done = s.done := rfl
@[simp] theorem State.shiftWindow_errKind (b : Byte) : (s.shiftWindow b).errKind = s.errKind := rfl
@[simp] theorem State.shiftWindow_lastCause (b : Byte) :
    (s.shiftWindow b).lastCause = s.lastCause := rfl
@[simp] theorem State.shiftWindow_errInfo (b : Byte) : (s.shiftWindow b).errInfo = s.errInfo := rfl
@[simp] theorem State.shiftWindow_res0 (b : Byte) : (s.shiftWindow b).res0 = s.res0 := rfl
@[simp] theorem State.shiftWindow_res1 (b : Byte) : (s.shiftWindow b).res1 = s.res1 := rfl
@[simp] theorem State.shiftWindow_commandId (b : Byte) :
    (s.shiftWindow b).commandId = s.commandId := rfl
@[simp] theorem State.shiftWindow_sensorId (b : Byte) :
    (s.shiftWindow b).sensorId = s.sensorId := rfl
@[simp] theorem State.shiftWindow_unkCnt (b : Byte) : (s.shiftWindow b).unkCnt = s.unkCnt := rfl
@[simp] theorem State.shiftWindow_syncLim (b : Byte) : (s.shiftWindow b).syncLim = s.syncLim := rfl
@[simp] theorem State.shiftWindow_dac (b : Byte) : (s.shiftWindow b).dac = s.dac := rfl
@[simp] theorem State.shiftWindow_muxL (b : Byte) : (s.shiftWindow b).muxL = s.muxL := rfl
@[simp] theorem State.shiftWindow_muxU (b : Byte) : (s.shiftWindow b).muxU = s.muxU := rfl
@[simp] theorem State.shiftWindow_cs (b : Byte) : (s.shiftWindow b).cs = s.cs := rfl
@[simp] theorem State.shiftWindow_bracket (b : Byte) : (s.shiftWindow b).bracket = s.bracket := rfl
@[simp] theorem State.shiftWindow_seq (b : Byte) : (s.shiftWindow b).seq = s.seq := rfl
@[simp] theorem State.shiftWindow_window (b : Byte) :
    (s.shiftWindow b).window = s.window.drop 1 ++ [b] := rfl
@[simp] theorem State.shiftWindow_lastByteEnd (b : Byte) :
    (s.shiftWindow b).lastByteEnd = s.lastByteEnd := rfl
@[simp] theorem State.shiftWindow_rx (b : Byte) : (s.shiftWindow b).rx = s.rx := rfl
@[simp] theorem State.shiftWindow_tx (b : Byte) : (s.shiftWindow b).tx = s.tx := rfl
@[simp] theorem State.shiftWindow_mem (b : Byte) : (s.shiftWindow b).mem = s.mem := rfl
@[simp] theorem State.shiftWindow_peers (b : Byte) : (s.shiftWindow b).peers = s.peers := rfl
@[simp] theorem State.shiftWindow_readData (b : Byte) :
    (s.shiftWindow b).readData = s.readData := rfl
@[simp] theorem State.shiftWindow_now (b : Byte) : (s.shiftWindow b).now = s.now := rfl
@[simp] theorem State.shiftWindow_settledAt (b : Byte) :
    (s.shiftWindow b).settledAt = s.settledAt := rfl
@[simp] theorem State.shiftWindow_draws (b : Byte) : (s.shiftWindow b).draws = s.draws := rfl
@[simp] theorem State.shiftWindow_bus (b : Byte) : (s.shiftWindow b).bus = s.bus := rfl
@[simp] theorem State.shiftWindow_moves (b : Byte) : (s.shiftWindow b).moves = s.moves := rfl

@[simp] theorem State.keepBatch_params (count : Byte) (trailer : Half) :
    (s.keepBatch count trailer).params = s.params := rfl
@[simp] theorem State.keepBatch_ctrl (count : Byte) (trailer : Half) :
    (s.keepBatch count trailer).ctrl = s.ctrl := rfl
@[simp] theorem State.keepBatch_done (count : Byte) (trailer : Half) :
    (s.keepBatch count trailer).done = true := rfl
@[simp] theorem State.keepBatch_errKind (count : Byte) (trailer : Half) :
    (s.keepBatch count trailer).errKind = s.errKind := rfl
@[simp] theorem State.keepBatch_lastCause (count : Byte) (trailer : Half) :
    (s.keepBatch count trailer).lastCause = s.lastCause := rfl
@[simp] theorem State.keepBatch_errInfo (count : Byte) (trailer : Half) :
    (s.keepBatch count trailer).errInfo = s.errInfo := rfl
@[simp] theorem State.keepBatch_res0 (count : Byte) (trailer : Half) :
    (s.keepBatch count trailer).res0 = zext count := rfl
@[simp] theorem State.keepBatch_res1 (count : Byte) (trailer : Half) :
    (s.keepBatch count trailer).res1 = trailer := rfl
@[simp] theorem State.keepBatch_commandId (count : Byte) (trailer : Half) :
    (s.keepBatch count trailer).commandId = s.commandId := rfl
@[simp] theorem State.keepBatch_sensorId (count : Byte) (trailer : Half) :
    (s.keepBatch count trailer).sensorId = s.sensorId := rfl
@[simp] theorem State.keepBatch_unkCnt (count : Byte) (trailer : Half) :
    (s.keepBatch count trailer).unkCnt = s.unkCnt := rfl
@[simp] theorem State.keepBatch_syncLim (count : Byte) (trailer : Half) :
    (s.keepBatch count trailer).syncLim = s.syncLim := rfl
@[simp] theorem State.keepBatch_dac (count : Byte) (trailer : Half) :
    (s.keepBatch count trailer).dac = s.dac := rfl
@[simp] theorem State.keepBatch_muxL (count : Byte) (trailer : Half) :
    (s.keepBatch count trailer).muxL = s.muxL := rfl
@[simp] theorem State.keepBatch_muxU (count : Byte) (trailer : Half) :
    (s.keepBatch count trailer).muxU = s.muxU := rfl
@[simp] theorem State.keepBatch_cs (count : Byte) (trailer : Half) :
    (s.keepBatch count trailer).cs = s.cs := rfl
@[simp] theorem State.keepBatch_bracket (count : Byte) (trailer : Half) :
    (s.keepBatch count trailer).bracket = s.bracket := rfl
@[simp] theorem State.keepBatch_seq (count : Byte) (trailer : Half) :
    (s.keepBatch count trailer).seq = .idle := rfl
@[simp] theorem State.keepBatch_window (count : Byte) (trailer : Half) :
    (s.keepBatch count trailer).window = s.window := rfl
@[simp] theorem State.keepBatch_lastByteEnd (count : Byte) (trailer : Half) :
    (s.keepBatch count trailer).lastByteEnd = s.lastByteEnd := rfl
@[simp] theorem State.keepBatch_rx (count : Byte) (trailer : Half) :
    (s.keepBatch count trailer).rx = s.rx := rfl
@[simp] theorem State.keepBatch_tx (count : Byte) (trailer : Half) :
    (s.keepBatch count trailer).tx = s.tx := rfl
@[simp] theorem State.keepBatch_mem (count : Byte) (trailer : Half) :
    (s.keepBatch count trailer).mem = (s.writeByte cmdBatchBase count).mem := rfl
@[simp] theorem State.keepBatch_peers (count : Byte) (trailer : Half) :
    (s.keepBatch count trailer).peers = s.peers := rfl
@[simp] theorem State.keepBatch_readData (count : Byte) (trailer : Half) :
    (s.keepBatch count trailer).readData = s.readData := rfl
@[simp] theorem State.keepBatch_now (count : Byte) (trailer : Half) :
    (s.keepBatch count trailer).now = s.now := rfl
@[simp] theorem State.keepBatch_settledAt (count : Byte) (trailer : Half) :
    (s.keepBatch count trailer).settledAt = s.settledAt := rfl
@[simp] theorem State.keepBatch_draws (count : Byte) (trailer : Half) :
    (s.keepBatch count trailer).draws = s.draws := rfl
@[simp] theorem State.keepBatch_bus (count : Byte) (trailer : Half) :
    (s.keepBatch count trailer).bus = s.bus := rfl
@[simp] theorem State.keepBatch_moves (count : Byte) (trailer : Half) :
    (s.keepBatch count trailer).moves = s.moves := rfl

@[simp] theorem State.started_params (i : Instr) (todo : List Micro) :
    (s.started i todo).params = s.params := rfl
@[simp] theorem State.started_ctrl (i : Instr) (todo : List Micro) :
    (s.started i todo).ctrl = s.ctrl := rfl
@[simp] theorem State.started_done (i : Instr) (todo : List Micro) :
    (s.started i todo).done = s.done := rfl
@[simp] theorem State.started_errKind (i : Instr) (todo : List Micro) :
    (s.started i todo).errKind = s.errKind := rfl
@[simp] theorem State.started_lastCause (i : Instr) (todo : List Micro) :
    (s.started i todo).lastCause = s.lastCause := rfl
@[simp] theorem State.started_errInfo (i : Instr) (todo : List Micro) :
    (s.started i todo).errInfo = s.errInfo := rfl
@[simp] theorem State.started_res0 (i : Instr) (todo : List Micro) :
    (s.started i todo).res0 = s.res0 := rfl
@[simp] theorem State.started_res1 (i : Instr) (todo : List Micro) :
    (s.started i todo).res1 = s.res1 := rfl
@[simp] theorem State.started_commandId (i : Instr) (todo : List Micro) :
    (s.started i todo).commandId = s.commandId := rfl
@[simp] theorem State.started_sensorId (i : Instr) (todo : List Micro) :
    (s.started i todo).sensorId = s.sensorId := rfl
@[simp] theorem State.started_unkCnt (i : Instr) (todo : List Micro) :
    (s.started i todo).unkCnt = s.unkCnt := rfl
@[simp] theorem State.started_syncLim (i : Instr) (todo : List Micro) :
    (s.started i todo).syncLim = s.syncLim := rfl
@[simp] theorem State.started_dac (i : Instr) (todo : List Micro) :
    (s.started i todo).dac = s.dac := rfl
@[simp] theorem State.started_muxL (i : Instr) (todo : List Micro) :
    (s.started i todo).muxL = s.muxL := rfl
@[simp] theorem State.started_muxU (i : Instr) (todo : List Micro) :
    (s.started i todo).muxU = s.muxU := rfl
@[simp] theorem State.started_cs (i : Instr) (todo : List Micro) :
    (s.started i todo).cs = s.cs := rfl
@[simp] theorem State.started_bracket (i : Instr) (todo : List Micro) :
    (s.started i todo).bracket = s.bracket := rfl
@[simp] theorem State.started_seq (i : Instr) (todo : List Micro) :
    (s.started i todo).seq = .running { op := i, todo := todo, loc := {} } := rfl
@[simp] theorem State.started_window (i : Instr) (todo : List Micro) :
    (s.started i todo).window = s.window := rfl
@[simp] theorem State.started_lastByteEnd (i : Instr) (todo : List Micro) :
    (s.started i todo).lastByteEnd = s.lastByteEnd := rfl
@[simp] theorem State.started_rx (i : Instr) (todo : List Micro) :
    (s.started i todo).rx = s.rx := rfl
@[simp] theorem State.started_tx (i : Instr) (todo : List Micro) :
    (s.started i todo).tx = s.tx := rfl
@[simp] theorem State.started_mem (i : Instr) (todo : List Micro) :
    (s.started i todo).mem = s.mem := rfl
@[simp] theorem State.started_peers (i : Instr) (todo : List Micro) :
    (s.started i todo).peers = s.peers := rfl
@[simp] theorem State.started_readData (i : Instr) (todo : List Micro) :
    (s.started i todo).readData = s.readData := rfl
@[simp] theorem State.started_now (i : Instr) (todo : List Micro) :
    (s.started i todo).now = s.now := rfl
@[simp] theorem State.started_settledAt (i : Instr) (todo : List Micro) :
    (s.started i todo).settledAt = s.settledAt := rfl
@[simp] theorem State.started_draws (i : Instr) (todo : List Micro) :
    (s.started i todo).draws = s.draws := rfl
@[simp] theorem State.started_bus (i : Instr) (todo : List Micro) :
    (s.started i todo).bus = s.bus := rfl
@[simp] theorem State.started_moves (i : Instr) (todo : List Micro) :
    (s.started i todo).moves = s.moves := rfl

end Sys2Proof.Machine
end

