-- ==== Sys2Proof/Laws/Memory.lean ====
section
/-! SUPPORT. The laws of the buffer memory: what a read gives after a write, and that every write keeps
the canonical form. -/

namespace Sys2Proof.Machine

theorem Memory.lookup_erase (d : Byte) (a off : Nat) (m : List Host.Cell) :
    Memory.lookup d a (Memory.erase off m) = if a = off then d else Memory.lookup d a m := by
  induction m with
  | nil => simp [Memory.erase, Memory.lookup]
  | cons c rest ih =>
    obtain ⟨k, b⟩ := c
    simp only [Memory.erase, Memory.lookup]
    split
    · rename_i h
      subst h
      rw [ih]
      by_cases e : a = k
      · simp [e]
      · simp [e, Ne.symm e]
    · rename_i h
      simp only [Memory.lookup, ih]
      by_cases e : k = a
      · subst e
        simp [h]
      · simp [e]

theorem Memory.lookup_insert (d v : Byte) (a off : Nat) (m : List Host.Cell) :
    Memory.lookup d a (Memory.insert off v m) = if a = off then v else Memory.lookup d a m := by
  induction m with
  | nil => simp [Memory.insert, Memory.lookup, eq_comm]
  | cons c rest ih =>
    obtain ⟨k, b⟩ := c
    simp only [Memory.insert]
    split
    · simp only [Memory.lookup, eq_comm]
    · split
      · rename_i h
        subst h
        simp only [Memory.lookup, eq_comm]
        split <;> simp_all
      · rename_i h
        simp only [Memory.lookup, ih]
        by_cases e : k = a
        · subst e
          simp [Ne.symm h]
        · simp [e]

theorem Memory.lookup_store (p : Params) (v : Byte) (a off : Nat) (m : List Host.Cell)
    (h : byteExists p off = true) :
    Memory.lookup (resetByte p a) a (Memory.store p off v m) =
      if a = off then v else Memory.lookup (resetByte p a) a m := by
  simp only [Memory.store, h, if_true]
  split
  · rw [Memory.lookup_erase]
    split <;> simp_all
  · rw [Memory.lookup_insert]

/-- A read after a write: the byte written at its own offset, if the window has it, and every other byte
as before. -/
theorem readByte_writeByte (s : State) (a off : Nat) (v : Byte) :
    (s.writeByte off v).readByte a =
      if a = off ∧ byteExists s.params off = true then v else s.readByte a := by
  simp only [State.readByte, State.writeByte_params, State.writeByte_mem]
  by_cases h : byteExists s.params off = true
  · rw [Memory.lookup_store _ _ _ _ _ h]
    by_cases e : a = off
    · subst e
      simp [h]
    · simp [e]
  · simp [Memory.store, h]

theorem readByte_writeByte_same (s : State) (off : Nat) (v : Byte)
    (h : byteExists s.params off = true) : (s.writeByte off v).readByte off = v := by
  simp [readByte_writeByte, h]

theorem readByte_writeByte_other (s : State) (a off : Nat) (v : Byte) (h : a ≠ off) :
    (s.writeByte off v).readByte a = s.readByte a := by
  simp [readByte_writeByte, h]

/-- A read depends on the memory and the parameters alone. -/
theorem readByte_congr (s t : State) (hm : t.mem = s.mem) (hp : t.params = s.params) (a : Nat) :
    t.readByte a = s.readByte a := by
  simp [State.readByte, hm, hp]

theorem Memory.wfFrom_mono (p : Params) (l l' : Nat) (m : List Host.Cell) (h : l' ≤ l)
    (w : Memory.wfFrom p l m = true) : Memory.wfFrom p l' m = true := by
  cases m with
  | nil => rfl
  | cons c rest =>
    obtain ⟨k, b⟩ := c
    simp only [Memory.wfFrom, Bool.and_eq_true, decide_eq_true_eq] at w ⊢
    exact ⟨⟨⟨by omega, w.1.1.2⟩, w.1.2⟩, w.2⟩

theorem Memory.wfFrom_erase (p : Params) (off l : Nat) (m : List Host.Cell)
    (w : Memory.wfFrom p l m = true) : Memory.wfFrom p l (Memory.erase off m) = true := by
  induction m generalizing l with
  | nil => rfl
  | cons c rest ih =>
    obtain ⟨k, b⟩ := c
    simp only [Memory.wfFrom, Bool.and_eq_true, decide_eq_true_eq] at w
    simp only [Memory.erase]
    split
    · exact ih l (Memory.wfFrom_mono p _ l rest (by omega) w.2)
    · simp only [Memory.wfFrom, Bool.and_eq_true, decide_eq_true_eq]
      exact ⟨w.1, ih _ w.2⟩

theorem Memory.wfFrom_insert (p : Params) (off l : Nat) (v : Byte) (m : List Host.Cell)
    (hl : l ≤ off) (he : byteExists p off = true) (hv : v ≠ resetByte p off)
    (w : Memory.wfFrom p l m = true) : Memory.wfFrom p l (Memory.insert off v m) = true := by
  induction m generalizing l with
  | nil => simp [Memory.insert, Memory.wfFrom, hl, he, hv]
  | cons c rest ih =>
    obtain ⟨k, b⟩ := c
    have w' := w
    simp only [Memory.wfFrom, Bool.and_eq_true, decide_eq_true_eq] at w
    simp only [Memory.insert]
    split
    · simp only [Memory.wfFrom, Bool.and_eq_true, decide_eq_true_eq]
      exact ⟨⟨⟨hl, he⟩, hv⟩, ⟨⟨by omega, w.1.1.2⟩, w.1.2⟩, w.2⟩
    · split
      · rename_i h
        subst h
        simp only [Memory.wfFrom, Bool.and_eq_true, decide_eq_true_eq]
        exact ⟨⟨⟨hl, he⟩, hv⟩, w.2⟩
      · simp only [Memory.wfFrom, Bool.and_eq_true, decide_eq_true_eq]
        exact ⟨w.1, ih (k + 1) (by omega) w.2⟩

/-- A store keeps the canonical form. -/
theorem Memory.wf_store (p : Params) (off : Nat) (v : Byte) (m : List Host.Cell)
    (w : Memory.wf p m = true) : Memory.wf p (Memory.store p off v m) = true := by
  simp only [Memory.store]
  split
  · split
    · exact Memory.wfFrom_erase p off 0 m w
    · exact Memory.wfFrom_insert p off 0 v m (Nat.zero_le _) ‹_› ‹_› w
  · exact w

/-- Every memory operation keeps the canonical form. -/
theorem writeByte_wf (s : State) (off : Nat) (v : Byte) (w : Memory.wf s.params s.mem = true) :
    Memory.wf (s.writeByte off v).params (s.writeByte off v).mem = true :=
  Memory.wf_store _ _ _ _ w

theorem writeHalf_wf (s : State) (off : Nat) (v : Half) (w : Memory.wf s.params s.mem = true) :
    Memory.wf (s.writeHalf off v).params (s.writeHalf off v).mem = true :=
  writeByte_wf _ _ _ (writeByte_wf _ _ _ w)

theorem writeWord_wf (s : State) (off : Nat) (v : Word) (w : Memory.wf s.params s.mem = true) :
    Memory.wf (s.writeWord off v).params (s.writeWord off v).mem = true :=
  writeByte_wf _ _ _ (writeByte_wf _ _ _ (writeByte_wf _ _ _ (writeByte_wf _ _ _ w)))

theorem updateRecord_wf (s : State) (i : Nat) (c d : Byte) (v : Half) (r : List Byte)
    (w : Memory.wf s.params s.mem = true) :
    Memory.wf (s.updateRecord i c d v r).params (s.updateRecord i c d v r).mem = true := by
  have h1 : ∀ t : State, Memory.wf t.params t.mem = true → ∀ off x,
      Memory.wf (t.writeHalf off x).params (t.writeHalf off x).mem = true :=
    fun t ht off x => writeHalf_wf t off x ht
  simp only [State.updateRecord]
  split <;> (repeat' split) <;> (repeat' apply h1) <;> exact w

/-- The memory of the reset state is in canonical form. -/
theorem reset_memory_wf : Memory.wf State.reset.params State.reset.mem = true := rfl

end Sys2Proof.Machine
end

