-- ==== Sys2Proof/Laws/Run.lean ====
section
/-! SUPPORT. What the sequencer does, said once: each step's effect on a running operation, that the
sequencer always gets to the end of an operation or to a wait, and the rewriting rules that carry an
operation out step by step (`drain_*`). -/

namespace Sys2Proof.Machine

/-- The state while an operation runs with these steps left. -/
def State.runningAt (s : State) (op : Instr) (todo : List Micro) (loc : Locals) : State :=
  { s with seq := .running { op := op, todo := todo, loc := loc } }

/-! ## Waiting and progress -/

theorem takeByte_waits (s : State) (k : Byte → State → Progress)
    (hk : ∀ b t, k b t ≠ .waits) : s.takeByte k = .waits ↔ s.rx = [] := by
  unfold State.takeByte
  split
  · rename_i h; simp [h]
  · rename_i h; simp [h, hk]

theorem searchStep_ne_waits (loc : Locals) (b : Byte) (s : State) : searchStep loc b s ≠ .waits := by
  simp only [searchStep]
  split <;> (try split) <;> simp

theorem countStep_ne_waits (loc : Locals) (b : Byte) (s : State) : countStep loc b s ≠ .waits := by
  simp only [countStep]
  split <;> simp

theorem trailerStep_ne_waits (c : Byte) (loc : Locals) (b : Byte) (s : State) :
    trailerStep c loc b s ≠ .waits := by
  simp only [trailerStep]
  split <;> (try split) <;> simp

/-- A step waits exactly when it takes a host byte and there is none. -/
theorem stepMicro_waits (m : Micro) (loc : Locals) (s : State) :
    stepMicro m loc s = .waits ↔ m.takesByte = true ∧ s.rx = [] := by
  cases m <;> simp only [stepMicro, Micro.takesByte, Bool.false_eq_true, false_and, iff_false,
    true_and, reduceCtorEq]
  case exchange => simp [exchangeStep]
  case append => simp only [appendStep]; split <;> simp
  case appendReply => simp only [appendStep]; split <;> simp
  case searchByte => exact takeByte_waits _ _ fun b t => searchStep_ne_waits _ b t
  case takeCount => exact takeByte_waits _ _ fun b t => countStep_ne_waits _ b t
  case takeInto => exact takeByte_waits _ _ fun b t => by simp
  case takeTrailer => exact takeByte_waits _ _ fun b t => trailerStep_ne_waits _ _ b t

/-- A quiescent sequencer takes no step. -/
theorem tick_quiescent (s : State) (h : s.quiescent = true) : tick s = s := by
  simp only [State.quiescent, State.busy, State.waiting] at h
  unfold tick
  split
  · rfl
  · rename_i r hr
    simp only [hr, Bool.not_true, Bool.false_or] at h
    split
    · simp_all
    · rename_i m rest ht
      simp only [ht, Bool.and_eq_true, List.isEmpty_iff] at h
      rw [(stepMicro_waits m r.loc s).2 h]

/-! ## The sequencer always comes to rest -/

/-- A bound on the work a list of steps makes. -/
def workOf (todo : List Micro) : Nat := (todo.map Micro.weight).sum

theorem workOf_append (a b : List Micro) : workOf (a ++ b) = workOf a + workOf b := by
  simp [workOf]

theorem workOf_cons (m : Micro) (b : List Micro) : workOf (m :: b) = m.weight + workOf b := by
  simp [workOf]

theorem workOf_map_one {α : Type} (f : α → Micro) (l : List α) (h : ∀ a, (f a).weight = 1) :
    workOf (l.map f) = l.length := by
  induction l with
  | nil => rfl
  | cons a l ih => simp [workOf_cons, h, ih, Nat.add_comm]

theorem workOf_rangeFlag (x : Half) (full : Nat) : workOf (rangeFlag x full) ≤ 1 := by
  simp only [rangeFlag]
  split <;> simp [workOf, Micro.weight]

theorem workOf_readRecords (check : RxCheck) (c : Byte) (h : ¬ Config.cmdMax < c.toNat) :
    workOf (readRecords check c) ≤ 116 := by
  have h1 : workOf ((List.range (3 * c.toNat)).map fun j => Micro.takeInto (cmdBatchBase + 1 + j)) =
      3 * c.toNat := by
    rw [workOf_map_one _ _ fun _ => by simp [Micro.weight], List.length_range]
  have h2 : workOf (if check = RxCheck.none then [] else [Micro.takeTrailer c]) ≤ 1 := by
    split <;> simp [workOf, Micro.weight]
  have h3 : workOf [Micro.keepBatch c] = 1 := rfl
  have h4 : Config.cmdMax = 38 := rfl
  simp only [readRecords, workOf_append, h1, h3]
  omega

/-- What a step that is done leaves to do is less than the step itself, host bytes counted. -/
theorem stepMicro_work (m : Micro) (loc loc' : Locals) (s t : State) (more : List Micro)
    (h : stepMicro m loc s = .go t loc' more) :
    workOf more + t.rx.length < m.weight + s.rx.length := by
  have app : ∀ id v l, appendStep id v l s = .go t loc' more →
      workOf more + t.rx.length < 5 + s.rx.length := by
    intro id v l h
    simp only [appendStep] at h
    split at h <;> simp only [Progress.go.injEq] at h <;> obtain ⟨rfl, -, rfl⟩ := h <;>
      simp [workOf, Micro.weight]
  have take : ∀ (k : Byte → State → Progress) (n : Nat), s.takeByte k = .go t loc' more →
      (∀ b u, k b u = .go t loc' more → workOf more ≤ n ∧ t.rx = u.rx) →
      workOf more + t.rx.length < n + s.rx.length := by
    intro k n h hk
    unfold State.takeByte at h
    split at h
    · cases h
    · rename_i b rest hr
      obtain ⟨h1, h2⟩ := hk _ _ h
      simp only [h2, hr, List.length_cons]
      omega
  cases m <;> simp only [stepMicro] at h
  case exchange out dest =>
    simp only [exchangeStep, Progress.go.injEq] at h
    obtain ⟨rfl, -, rfl⟩ := h
    cases dest <;> simp [State.setRxBuf, workOf, Micro.weight]
  case keepReplies i n =>
    simp only [Progress.go.injEq] at h
    obtain ⟨rfl, -, rfl⟩ := h
    rw [workOf_map_one _ _ fun _ => by simp [Micro.weight]]
    simp [Micro.weight]
  case updateRecord i c d v =>
    simp only [Progress.go.injEq] at h
    obtain ⟨rfl, -, rfl⟩ := h
    have : (s.updateRecord i c d v loc.replies).rx = s.rx := by
      simp only [State.updateRecord, State.writeHalf]
      split <;> (repeat' split) <;> simp
    simp [this, workOf, Micro.weight]
  case append id v => exact app _ _ _ h
  case appendReply id => exact app _ _ _ h
  case searchByte =>
    refine take _ 1 h fun b u hu => ?_
    simp only [searchStep] at hu
    split at hu
    · simp only [Progress.go.injEq] at hu
      obtain ⟨rfl, -, rfl⟩ := hu
      simp [workOf]
    · split at hu
      · cases hu
      · simp only [Progress.go.injEq] at hu
        obtain ⟨rfl, -, rfl⟩ := hu
        simp [workOf, Micro.weight]
  case takeCount =>
    refine take _ 120 h fun b u hu => ?_
    simp only [countStep] at hu
    split at hu
    · cases hu
    · rename_i hb
      simp only [Progress.go.injEq] at hu
      obtain ⟨rfl, -, rfl⟩ := hu
      exact ⟨le_trans (workOf_readRecords _ _ hb) (by decide), rfl⟩
  case takeInto off =>
    refine take _ 1 h fun b u hu => ?_
    simp only [Progress.go.injEq] at hu
    obtain ⟨rfl, -, rfl⟩ := hu
    simp [workOf]
  case takeTrailer c =>
    refine take _ 1 h fun b u hu => ?_
    simp only [trailerStep] at hu
    split at hu
    · simp only [Progress.go.injEq] at hu
      obtain ⟨rfl, -, rfl⟩ := hu
      simp [workOf]
    · split at hu
      · cases hu
      · simp only [Progress.go.injEq] at hu
        obtain ⟨rfl, -, rfl⟩ := hu
        simp [workOf]
  case keepBatch => cases h
  case raise => cases h
  all_goals
    simp only [Progress.go.injEq] at h
    obtain ⟨rfl, -, rfl⟩ := h
    simp [workOf, Micro.weight]

/-- An operation that ends leaves the sequencer idle. -/
theorem raiseError_seq (k : ErrorKind) (info : Half) (loc : Locals) (s : State) :
    (s.raiseError k info loc).seq = .idle := by
  simp [State.raiseError]

theorem takeByte_stops (s t : State) (k : Byte → State → Progress) (h : s.takeByte k = .stops t) :
    ∃ b u, k b u = .stops t := by
  unfold State.takeByte at h
  split at h
  · cases h
  · exact ⟨_, _, h⟩

theorem stepMicro_stops (m : Micro) (loc : Locals) (s t : State)
    (h : stepMicro m loc s = .stops t) : t.seq = .idle := by
  cases m <;> simp only [stepMicro, reduceCtorEq] at h
  case exchange => simp [exchangeStep] at h
  case append => simp only [appendStep] at h; split at h <;> cases h
  case appendReply => simp only [appendStep] at h; split at h <;> cases h
  case searchByte =>
    obtain ⟨b, u, h⟩ := takeByte_stops _ _ _ h
    simp only [searchStep] at h
    split at h
    · cases h
    · split at h <;> cases h
      exact raiseError_seq _ _ _ _
  case takeCount =>
    obtain ⟨b, u, h⟩ := takeByte_stops _ _ _ h
    simp only [countStep] at h
    split at h <;> cases h
    exact raiseError_seq _ _ _ _
  case takeInto =>
    obtain ⟨b, u, h⟩ := takeByte_stops _ _ _ h
    cases h
  case takeTrailer =>
    obtain ⟨b, u, h⟩ := takeByte_stops _ _ _ h
    simp only [trailerStep] at h
    split at h
    · cases h
    · split at h <;> cases h
      exact raiseError_seq _ _ _ _
  case raise =>
    simp only [Progress.stops.injEq] at h
    subst h
    exact raiseError_seq _ _ _ _
  case keepBatch =>
    simp only [Progress.stops.injEq] at h
    subst h
    rfl

theorem work_idle (s : State) (h : s.seq = .idle) : s.work = 0 := by simp [State.work, h]

/-- Each step of the sequencer leaves less work. -/
theorem work_tick (s : State) (h : s.quiescent = false) : (tick s).work < s.work := by
  simp only [State.quiescent, State.busy, State.waiting] at h
  unfold tick
  split
  · simp_all
  · rename_i r hr
    have hw : s.work = workOf r.todo + s.rx.length + 1 := by simp [State.work, hr, workOf]
    split
    · rw [work_idle _ rfl, hw]; omega
    · rename_i m rest ht
      split
      · rename_i t loc more hm
        have h1 := stepMicro_work _ _ _ _ _ _ hm
        rw [hw, ht, workOf_cons]
        simp only [State.work]
        have h2 := workOf_append more rest
        simp only [workOf] at h1 h2 ⊢
        omega
      · rename_i hm
        simp [hr, ht, (stepMicro_waits m r.loc s).1 hm] at h
      · rename_i t hm
        rw [work_idle _ (stepMicro_stops _ _ _ _ hm), hw]; omega

theorem run_quiescent (n : Nat) (s : State) (h : s.quiescent = true) : run n s = s := by
  cases n <;> simp [run, h]

/-- Once the fuel covers the work, more fuel changes nothing. -/
theorem run_enough (n m : Nat) (s : State) (hn : s.work ≤ n) (hm : s.work ≤ m) : run n s = run m s := by
  induction n generalizing m s with
  | zero =>
    have hq : s.quiescent = true := by
      by_contra hq
      have := work_tick s (by simpa using hq)
      omega
    rw [run_quiescent _ _ hq, run_quiescent _ _ hq]
  | succ n ih =>
    by_cases hq : s.quiescent = true
    · rw [run_quiescent _ _ hq, run_quiescent _ _ hq]
    · have ht := work_tick s (by simpa using hq)
      cases m with
      | zero => omega
      | succ m =>
        simp only [run, hq]
        exact ih m (tick s) (by omega) (by omega)

/-- Letting the sequencer run absorbs a step. -/
theorem drain_tick (s : State) : drain (tick s) = drain s := by
  by_cases hq : s.quiescent = true
  · rw [tick_quiescent s hq]
  · have ht := work_tick s (by simpa using hq)
    unfold drain
    cases hw : s.work with
    | zero => omega
    | succ n =>
      simp only [run, hq]
      exact run_enough _ _ _ (le_refl _) (by omega)

theorem drain_quiescent (s : State) (h : s.quiescent = true) : drain s = s := run_quiescent _ _ h

theorem drain_iterate (n : Nat) (s : State) : drain (tick^[n] s) = drain s := by
  induction n generalizing s with
  | zero => rfl
  | succ n ih => rw [Function.iterate_succ_apply, ih, drain_tick]

/-- The sequencer comes to rest. -/
theorem quiescent_drain (s : State) : (drain s).quiescent = true := by
  have key : ∀ n (t : State), t.work ≤ n → (run n t).quiescent = true := by
    intro n
    induction n with
    | zero =>
      intro t ht
      by_contra hq
      by_cases h : t.quiescent = true
      · simp [run, h] at hq
      · have := work_tick t (by simpa using h)
        omega
    | succ n ih =>
      intro t ht
      by_cases h : t.quiescent = true
      · simp [run, h]
      · have := work_tick t (by simpa using h)
        simp only [run, h]
        exact ih _ (by omega)
  exact key _ _ (le_refl _)

/-- What the sequencer comes to is a number of its own steps away. -/
theorem drain_is_iterate (s : State) : ∃ n, drain s = tick^[n] s := by
  have key : ∀ n (t : State), ∃ k, run n t = tick^[k] t := by
    intro n
    induction n with
    | zero => exact fun t => ⟨0, rfl⟩
    | succ n ih =>
      intro t
      by_cases h : t.quiescent = true
      · exact ⟨0, by simp [run, h]⟩
      · obtain ⟨k, hk⟩ := ih (tick t)
        exact ⟨k + 1, by simp only [run, h]; exact hk⟩
  exact key _ _

/-! ## Carrying an operation out, step by step -/

variable (s : State) (op : Instr) (rest : List Micro) (loc : Locals)

theorem tick_runningAt_go (m : Micro) (t : State) (loc' : Locals) (more : List Micro)
    (h : stepMicro m loc (s.runningAt op (m :: rest) loc) = .go t loc' more) :
    tick (s.runningAt op (m :: rest) loc) = t.runningAt op (more ++ rest) loc' := by
  simp only [tick, State.runningAt] at h ⊢
  rw [h]

theorem drain_go (m : Micro) (t : State) (loc' : Locals) (more : List Micro)
    (h : stepMicro m loc (s.runningAt op (m :: rest) loc) =
      .go (t.runningAt op (m :: rest) loc) loc' more) :
    drain (s.runningAt op (m :: rest) loc) = drain (t.runningAt op (more ++ rest) loc') := by
  rw [← drain_tick, tick_runningAt_go s op rest loc m _ loc' more h]
  rfl

theorem drain_next (m : Micro) (t : State) (loc' : Locals)
    (h : stepMicro m loc (s.runningAt op (m :: rest) loc) =
      .go (t.runningAt op (m :: rest) loc) loc' []) :
    drain (s.runningAt op (m :: rest) loc) = drain (t.runningAt op rest loc') :=
  drain_go s op rest loc m t loc' [] h

theorem drain_stops (m : Micro) (t : State)
    (h : stepMicro m loc (s.runningAt op (m :: rest) loc) = .stops t) :
    drain (s.runningAt op (m :: rest) loc) = t := by
  have ht : t.quiescent = true := by
    simp [State.quiescent, State.busy, stepMicro_stops _ _ _ _ h]
  rw [← drain_tick]
  simp only [tick, State.runningAt] at h ⊢
  rw [h]
  exact drain_quiescent t ht

/-- The operation ends when no step is left (R147). -/
@[simp] theorem drain_nil : drain (s.runningAt op [] loc) = s.finish := by
  rw [← drain_tick]
  exact drain_quiescent _ rfl

@[simp] theorem drain_setMux (ch : BitVec 6) : drain (s.runningAt op (.setMux ch :: rest) loc) =
    drain ((s.setMux ch).runningAt op rest loc) := drain_next s op rest loc _ _ _ rfl

@[simp] theorem drain_settle : drain (s.runningAt op (.settle :: rest) loc) =
    drain (s.settle.runningAt op rest loc) := drain_next s op rest loc _ _ _ rfl

@[simp] theorem drain_assertCs (i : Nat) : drain (s.runningAt op (.assertCs i :: rest) loc) =
    drain ((s.assertCs i).runningAt op rest { loc with replies := [], ownBracket := true }) :=
  drain_next s op rest loc _ _ _ rfl

@[simp] theorem drain_raiseCs : drain (s.runningAt op (.raiseCs :: rest) loc) =
    drain (s.raiseCs.runningAt op rest loc) := drain_next s op rest loc _ _ _ rfl

@[simp] theorem drain_releaseCs : drain (s.runningAt op (.releaseCs :: rest) loc) =
    drain (s.endNow.runningAt op rest { loc with ownBracket := false }) :=
  drain_next s op rest loc _ _ _ rfl

@[simp] theorem drain_exchange (out : Byte) :
    drain (s.runningAt op (.exchange out .discard :: rest) loc) =
      drain ((s.exchange out).runningAt op rest
        { loc with replies := loc.replies ++ [s.replyByte out] }) :=
  drain_next s op rest loc _ _ _ rfl

@[simp] theorem drain_exchange_rxBuf (out : Byte) (i k : Nat) :
    drain (s.runningAt op (.exchange out (.rxBuf i k) :: rest) loc) =
      drain (((s.exchange out).setRxBuf i k (s.replyByte out)).runningAt op rest
        { loc with replies := loc.replies ++ [s.replyByte out] }) :=
  drain_next s op rest loc _ _ _ rfl

@[simp] theorem drain_sampleAdc : drain (s.runningAt op (.sampleAdc :: rest) loc) =
    drain (s.sampleAdc.runningAt op rest loc) := drain_next s op rest loc _ _ _ rfl

@[simp] theorem drain_poke (off : Nat) (b : Byte) :
    drain (s.runningAt op (.poke off b :: rest) loc) =
      drain ((s.writeByte off b).runningAt op rest loc) := drain_next s op rest loc _ _ _ rfl

/-- An accepted operation runs its steps from the first (R148). -/
theorem drain_accept (i : Instr) (todo : List Micro) (s : State) :
    drain (accept i todo s) = drain (s.runningAt i todo {}) := by
  unfold accept
  split
  · rw [drain_poke]
    rfl
  · rfl

theorem drain_keepReplies (i n : Nat) : drain (s.runningAt op (.keepReplies i n :: rest) loc) =
    drain (s.runningAt op (((List.range n).map fun k =>
      .poke (rxBufBase + 8 * i + k) (loc.replies.getD k 0)) ++ rest) loc) :=
  drain_go s op rest loc _ _ _ _ rfl

theorem updateRecord_runningAt (i : Nat) (c d : Byte) (v : Half) (r : List Byte) (todo : List Micro) :
    (s.runningAt op todo loc).updateRecord i c d v r =
      (s.updateRecord i c d v r).runningAt op todo loc := by
  have e : ∀ (x : Half) (off : Nat) (u : State),
      (u.runningAt op todo loc).writeHalf off x = (u.writeHalf off x).runningAt op todo loc :=
    fun _ _ _ => rfl
  simp only [State.updateRecord]
  by_cases h : c = 1 <;> simp only [h, if_true, if_false, e] <;> (repeat' split) <;> rfl

@[simp] theorem drain_updateRecord (i : Nat) (c d : Byte) (v : Half) :
    drain (s.runningAt op (.updateRecord i c d v :: rest) loc) =
      drain ((s.updateRecord i c d v loc.replies).runningAt op rest loc) :=
  drain_next s op rest loc _ _ _ (by
    simp only [stepMicro, updateRecord_runningAt])

@[simp] theorem drain_countUnknown : drain (s.runningAt op (.countUnknown :: rest) loc) =
    drain (s.countUnknown.runningAt op rest { loc with unk := loc.unk + 1 }) :=
  drain_next s op rest loc _ _ _ rfl

@[simp] theorem drain_startSearch : drain (s.runningAt op (.startSearch :: rest) loc) =
    drain (s.startSearch.runningAt op rest { loc with taken := 0 }) :=
  drain_next s op rest loc _ _ _ rfl

@[simp] theorem drain_transmit (b : Byte) : drain (s.runningAt op (.transmit b :: rest) loc) =
    drain ((s.transmit b).runningAt op rest loc) := drain_next s op rest loc _ _ _ rfl

@[simp] theorem drain_result (r0 r1 : Half) : drain (s.runningAt op (.result r0 r1 :: rest) loc) =
    drain ((s.setResult r0 r1).runningAt op rest loc) := drain_next s op rest loc _ _ _ rfl

@[simp] theorem drain_resultReply8 : drain (s.runningAt op (.resultReply8 :: rest) loc) =
    drain ((s.setResult (zext (loc.replies.getD 0 0)) 0).runningAt op rest loc) :=
  drain_next s op rest loc _ _ _ rfl

@[simp] theorem drain_resultReply16 : drain (s.runningAt op (.resultReply16 :: rest) loc) =
    drain ((s.setResult (replyWord loc.replies 0) 0).runningAt op rest loc) :=
  drain_next s op rest loc _ _ _ rfl

@[simp] theorem drain_resultTxn (all : Bool) :
    drain (s.runningAt op (.resultTxn all :: rest) loc) =
      drain ((s.setResult (replyWord loc.replies 2)
        (if all then replyWord loc.replies 4 else 0)).runningAt op rest loc) :=
  drain_next s op rest loc _ _ _ rfl

@[simp] theorem drain_resultSwap : drain (s.runningAt op (.resultSwap :: rest) loc) =
    drain ((s.setResult (toHalf loc.real) (toHalf loc.unk)).runningAt op rest loc) :=
  drain_next s op rest loc _ _ _ rfl

@[simp] theorem drain_resultSearch : drain (s.runningAt op (.resultSearch :: rest) loc) =
    drain ((s.setResult (toHalf (min loc.taken 0xFFFF)) 0).runningAt op rest loc) :=
  drain_next s op rest loc _ _ _ rfl

/-- `RDBATCH` ends with its batch valid (R135). -/
@[simp] theorem drain_keepBatch (c : Byte) :
    drain (s.runningAt op (.keepBatch c :: rest) loc) = s.keepBatch c (zext loc.trailer) :=
  drain_stops s op rest loc _ _ rfl

@[simp] theorem drain_setDac (y : BitVec 12) : drain (s.runningAt op (.setDac y :: rest) loc) =
    drain ((s.setDac y).runningAt op rest loc) := drain_next s op rest loc _ _ _ rfl

@[simp] theorem drain_flag (k : ErrorKind) (info : Half) :
    drain (s.runningAt op (.flag k info :: rest) loc) =
      drain ((s.record k info).runningAt op rest loc) := drain_next s op rest loc _ _ _ rfl

theorem raiseError_runningAt (k : ErrorKind) (info : Half) (todo : List Micro) (loc' : Locals) :
    (s.runningAt op todo loc').raiseError k info loc = s.raiseError k info loc := by
  cases hb : s.bracket <;> cases ho : loc.ownBracket <;>
    simp [State.raiseError, State.isOpen, State.runningAt, State.record, State.endNow, State.finish,
      hb, ho]

/-- A raise ends the operation (R149); what the sequencer held is gone. -/
@[simp] theorem drain_raise (k : ErrorKind) (info : Half) :
    drain (s.runningAt op (.raise k info :: rest) loc) = s.raiseError k info loc := by
  rw [drain_stops s op rest loc _ _ rfl, raiseError_runningAt]

/-- A record appended to a sensor batch with room (R121): its bytes, then the count. -/
def State.withRecord (id : Byte) (v : Half) (s : State) : State :=
  (((s.writeByte (sensBatchBase + 1 + 3 * s.batchCount sensBatchBase) id).writeByte
    (sensBatchBase + 2 + 3 * s.batchCount sensBatchBase) (lo v)).writeByte
    (sensBatchBase + 3 + 3 * s.batchCount sensBatchBase) (hi v)).writeByte sensBatchBase
    (BitVec.ofNat 8 (s.batchCount sensBatchBase + 1))

theorem drain_appendStep (m : Micro) (id : Byte) (v : Half) (loc' : Locals)
    (hm : ∀ t, stepMicro m loc t = appendStep id v loc' t) :
    drain (s.runningAt op (m :: rest) loc) =
      if s.batchCount sensBatchBase < Config.sensMax then
        drain ((s.withRecord id v).runningAt op rest loc')
      else drain ((s.record .len (zext id)).runningAt op rest loc') := by
  have hb : (s.runningAt op (m :: rest) loc).batchCount sensBatchBase = s.batchCount sensBatchBase := rfl
  split
  · rename_i h
    rw [drain_go s op rest loc m s loc' _ (by rw [hm, appendStep, hb, if_neg (Nat.not_le.2 h)])]
    simp only [List.cons_append, List.nil_append, drain_poke]
    rfl
  · rename_i h
    exact drain_next s op rest loc m _ loc' (by
      rw [hm, appendStep, hb, if_pos (Nat.not_lt.1 h)]; rfl)

/-- `Append` (R121): the record joins the sensor batch, or is dropped and flagged where it is full. -/
@[simp] theorem drain_append (id : Byte) (v : Half) : drain (s.runningAt op (.append id v :: rest) loc) =
    if s.batchCount sensBatchBase < Config.sensMax then
      drain ((s.withRecord id v).runningAt op rest loc)
    else drain ((s.record .len (zext id)).runningAt op rest loc) :=
  drain_appendStep s op rest loc _ id v loc fun _ => rfl

/-- The harvested record is appended as its reply word, and counted (R122). -/
theorem drain_appendReply (id : Byte) : drain (s.runningAt op (.appendReply id :: rest) loc) =
    drain (s.runningAt op (.append id (replyWord loc.replies 2) :: rest)
      { loc with real := loc.real + 1 }) := by
  rw [drain_append, drain_appendStep s op rest loc _ id (replyWord loc.replies 2) _ fun _ => rfl]

/-- With no host byte there, a step that takes one waits (R57). -/
theorem drain_waits (m : Micro) (hm : m.takesByte = true) (hr : s.rx = []) :
    drain (s.runningAt op (m :: rest) loc) = s.runningAt op (m :: rest) loc := by
  apply drain_quiescent
  simp [State.quiescent, State.waiting, State.runningAt, hm, hr]

/-- A byte of a frame's records goes to the buffer (R135). -/
theorem drain_takeInto (off : Nat) (b : Byte) (more : List Byte) (hr : s.rx = b :: more) :
    drain (s.runningAt op (.takeInto off :: rest) loc) =
      drain ((({ s with rx := more } : State).writeByte off b).runningAt op rest loc) := by
  have hs : (s.runningAt op (.takeInto off :: rest) loc).rx = b :: more := hr
  refine drain_next s op rest loc _ _ _ ?_
  simp only [stepMicro, State.takeByte, hs]
  rfl

/-- One byte of the search completes the marker, spends the limit, or neither (R132). -/
theorem drain_searchByte (b : Byte) (more : List Byte) (hr : s.rx = b :: more) :
    drain (s.runningAt op (.searchByte :: rest) loc) =
      (let t := ({ s with rx := more } : State).shiftWindow b
       if t.markerSeen then drain (t.runningAt op rest { loc with taken := loc.taken + 1 })
       else if t.searchSpent (loc.taken + 1) then t.raiseError .desync (toHalf (loc.taken + 1)) loc
       else drain (t.runningAt op (.searchByte :: rest) { loc with taken := loc.taken + 1 })) := by
  have hs : (s.runningAt op (.searchByte :: rest) loc).rx = b :: more := hr
  generalize ht : ({ s with rx := more } : State).shiftWindow b = t
  have hx : stepMicro .searchByte loc (s.runningAt op (.searchByte :: rest) loc) =
      if t.markerSeen then .go (t.runningAt op (.searchByte :: rest) loc)
        { loc with taken := loc.taken + 1 } []
      else if t.searchSpent (loc.taken + 1) then
        .stops ((t.runningAt op (.searchByte :: rest) loc).raiseError .desync
          (toHalf (loc.taken + 1)) loc)
      else .go (t.runningAt op (.searchByte :: rest) loc) { loc with taken := loc.taken + 1 }
        [.searchByte] := by
    simp only [stepMicro, State.takeByte, hs]
    subst ht
    rfl
  dsimp only
  split
  · rename_i h1
    rw [if_pos h1] at hx
    exact drain_next s op rest loc _ _ _ hx
  · rename_i h1
    rw [if_neg h1] at hx
    split
    · rename_i h2
      rw [if_pos h2] at hx
      rw [drain_stops s op rest loc _ _ hx, raiseError_runningAt]
    · rename_i h2
      rw [if_neg h2] at hx
      exact drain_go s op rest loc _ _ _ _ hx

end Sys2Proof.Machine
end

