-- ==== Sys2Proof/Laws/Transport.lean ====
section
/-! SUPPORT. What the transfer loops do, said once: a run of byte exchanges, one bracket, one bracket on
each target, as functions of the state before, with the rules that carry them out and what they leave
unchanged. -/

namespace Sys2Proof.Safety

open Sys2Proof.Machine

theorem SameSpi.refl (s : State) : SameSpi s s :=
  ⟨rfl, rfl, rfl, rfl, rfl, rfl, rfl, rfl, rfl, rfl, rfl⟩

theorem SameSpi.trans {s t u : State} (h : SameSpi s t) (g : SameSpi t u) : SameSpi s u :=
  ⟨g.1.trans h.1, g.2.trans h.2, g.3.trans h.3, g.4.trans h.4, g.5.trans h.5, g.6.trans h.6,
    g.7.trans h.7, g.8.trans h.8, g.9.trans h.9, g.10.trans h.10, g.11.trans h.11⟩

theorem SameSpi.symm {s t : State} (h : SameSpi s t) : SameSpi t s :=
  ⟨h.1.symm, h.2.symm, h.3.symm, h.4.symm, h.5.symm, h.6.symm, h.7.symm, h.8.symm, h.9.symm,
    h.10.symm, h.11.symm⟩

end Sys2Proof.Safety

namespace Sys2Proof.Machine

open Sys2Proof.Safety

/-! ## One exchange -/

/-- An exchange that is not early (R127): the reply is the transmit register, the byte is handled. -/
theorem Peer.exchange_timely (ps : Params) (start : Nat) (m : Byte) (p : Peer) (d : Draws)
    (h : p.readyAt ≤ start) : p.exchange ps start m d =
      (p.txReg, { (p.handle ps m d).1 with readyAt := start + ps.tSlaveIsr }, (p.handle ps m d).2) := by
  simp [Peer.exchange, Peer.handledBy, h]

/-- An early exchange (R165): reply and peer state are draws. -/
theorem Peer.exchange_early (ps : Params) (start : Nat) (m : Byte) (p : Peer) (d : Draws)
    (h : start < p.readyAt) : p.exchange ps start m d =
      (drawByte d, { p.drawn d.tail with readyAt := p.readyAt + ps.tSlaveIsr },
        d.tail.skip peerDraws) := by
  simp [Peer.exchange, Peer.handledBy, Nat.not_le.2 h, Nat.max_eq_right (Nat.le_of_lt h)]

/-- What `SpiXfer` comes to in the open bracket of an attached, selected slave (R100, R127). -/
theorem busReply_selected (s : State) (i : Nat) (out : Byte) (p : Peer) (hb : s.bracket = .opened i)
    (hp : s.peers[i]? = some p) (ha : p.attached = true) (hs : s.selects i = true) :
    s.busReply out = ((p.exchange s.params s.byteStart out s.draws).1,
      s.peers.set i (p.exchange s.params s.byteStart out s.draws).2.1,
      (p.exchange s.params s.byteStart out s.draws).2.2) := by
  simp [State.busReply, State.peerReply, hb, hp, ha, hs]

/-- With no attached, selected slave the reply is a draw and no peer changes (I14). -/
theorem peerReply_unanswered (s : State) (i : Nat) (out : Byte) (p : Peer) (hp : s.peers[i]? = some p)
    (h : p.attached = false ∨ s.selects i = false) :
    s.peerReply i out = (drawByte s.draws, s.peers, s.draws.tail) := by
  obtain h | h := h <;> simp [State.peerReply, hp, h]

/-! ## A run of exchanges -/

/-- Consecutive bytes stored from an offset on. -/
def State.writeBytes (off : Nat) : List Byte → State → State
  | [], s => s
  | b :: rest, s => State.writeBytes (off + 1) rest (s.writeByte off b)

@[simp] theorem exchanges_nil (s : State) : exchanges s [] = (s, []) := rfl

theorem exchanges_length (s : State) (out : List Byte) : (exchanges s out).2.length = out.length := by
  induction out generalizing s with
  | nil => rfl
  | cons b rest ih => simp [exchanges, ih]

/-- Storing a byte does not change what an exchange does. -/
theorem exchange_writeByte (s : State) (off : Nat) (v out : Byte) :
    (s.writeByte off v).exchange out = (s.exchange out).writeByte off v ∧
      (s.writeByte off v).replyByte out = s.replyByte out := ⟨rfl, rfl⟩

theorem exchange_writeBytes (s : State) (off : Nat) (bs : List Byte) (out : Byte) :
    (s.writeBytes off bs).exchange out = (s.exchange out).writeBytes off bs ∧
      (s.writeBytes off bs).replyByte out = s.replyByte out := by
  induction bs generalizing s off with
  | nil => exact ⟨rfl, rfl⟩
  | cons b bs ih =>
    simp only [State.writeBytes]
    have h := ih (s.writeByte off b) (off + 1)
    rw [h.1, h.2, (exchange_writeByte s off b out).1, (exchange_writeByte s off b out).2]
    exact ⟨rfl, rfl⟩

theorem exchanges_writeByte (s : State) (off : Nat) (v : Byte) (out : List Byte) :
    exchanges (s.writeByte off v) out =
      ((exchanges s out).1.writeByte off v, (exchanges s out).2) := by
  induction out generalizing s with
  | nil => rfl
  | cons b rest ih =>
    simp only [exchanges, (exchange_writeByte s off v b).1, (exchange_writeByte s off v b).2, ih]

/-- What a run of exchanges leaves unchanged. -/
theorem exchanges_frame (s : State) (out : List Byte) :
    (exchanges s out).1 = { s with
      now := (exchanges s out).1.now
      lastByteEnd := (exchanges s out).1.lastByteEnd
      peers := (exchanges s out).1.peers
      draws := (exchanges s out).1.draws
      bus := (exchanges s out).1.bus } := by
  induction out generalizing s with
  | nil => rfl
  | cons b rest ih =>
    simp only [exchanges]
    rw [ih (s.exchange b)]
    rfl

theorem exchanges_bus (s : State) (out : List Byte) :
    (exchanges s out).1.bus = s.bus ++ List.zipWith BusEvent.byte out (exchanges s out).2 := by
  induction out generalizing s with
  | nil => simp
  | cons b rest ih => simp [exchanges, ih, State.exchange]

/-- Only the open bracket's peer steps (R126). -/
theorem exchange_others (s : State) (i j : Nat) (out : Byte) (hb : s.bracket = .opened i) (hj : j ≠ i) :
    (s.exchange out).peers[j]? = s.peers[j]? := by
  simp only [State.exchange, State.busReply, hb, State.peerReply]
  split
  · rfl
  · split
    · rw [List.getElem?_set_ne (Ne.symm hj)]
    · rfl

theorem exchanges_others (s : State) (i j : Nat) (out : List Byte) (hb : s.bracket = .opened i)
    (hj : j ≠ i) : (exchanges s out).1.peers[j]? = s.peers[j]? := by
  induction out generalizing s with
  | nil => rfl
  | cons b rest ih =>
    simp only [exchanges]
    rw [ih (s.exchange b) hb, exchange_others s i j b hb hj]

theorem byteStart_ge (s : State) : s.now ≤ s.byteStart := by
  simp only [State.byteStart]
  split <;> omega

/-- After a byte, each further byte takes at least `T_IB` (R99). -/
theorem exchanges_time_after (s : State) (out : List Byte) (h : s.lastByteEnd = some s.now) :
    s.now + out.length * s.params.tIb ≤ (exchanges s out).1.now := by
  induction out generalizing s with
  | nil => simp
  | cons b rest ih =>
    have h1 : s.now + s.params.tIb ≤ (s.exchange b).now := by
      simp only [State.exchange, State.byteStart, h]
      omega
    have h2 := ih (s.exchange b) rfl
    have h3 : (s.exchange b).params = s.params := rfl
    simp only [exchanges, List.length_cons, Nat.succ_mul]
    rw [h3] at h2
    omega

/-- `n` bytes take at least `(n - 1) * T_IB` (R99). -/
theorem exchanges_time (s : State) (out : List Byte) :
    s.now + (out.length - 1) * s.params.tIb ≤ (exchanges s out).1.now := by
  cases out with
  | nil => simp
  | cons b rest =>
    have h1 := byteStart_ge s
    have h2 := exchanges_time_after (s.exchange b) rest rfl
    have h3 : (s.exchange b).params = s.params := rfl
    have h4 : (s.exchange b).now = s.byteStart := rfl
    simp only [exchanges, List.length_cons, Nat.add_sub_cancel]
    rw [h3, h4] at h2
    omega

/-- A run of exchanges whose replies are dropped. -/
theorem drain_exchanges (s : State) (op : Instr) (rest : List Micro) (loc : Locals) (out : List Byte) :
    drain (s.runningAt op ((out.map fun b => .exchange b .discard) ++ rest) loc) =
      drain ((exchanges s out).1.runningAt op rest
        { loc with replies := loc.replies ++ (exchanges s out).2 }) := by
  induction out generalizing s loc with
  | nil => simp
  | cons b out ih =>
    simp only [List.map_cons, List.cons_append, drain_exchange, exchanges]
    rw [ih]
    simp

/-- A run of exchanges whose replies go to a row of `RXBUF` from byte `k` on. -/
theorem drain_exchanges_kept (s : State) (op : Instr) (rest : List Micro) (loc : Locals) (i k : Nat)
    (out : List Byte) :
    drain (s.runningAt op (((out.zipIdx k).map fun x => .exchange x.1 (.rxBuf i x.2)) ++ rest) loc) =
      drain (((exchanges s out).1.writeBytes (rxBufBase + 8 * i + k) (exchanges s out).2).runningAt
        op rest { loc with replies := loc.replies ++ (exchanges s out).2 }) := by
  induction out generalizing s loc k with
  | nil => simp [State.writeBytes]
  | cons b out ih =>
    simp only [List.zipIdx_cons, List.map_cons, List.cons_append, drain_exchange_rxBuf, exchanges]
    rw [ih]
    simp only [State.setRxBuf, exchanges_writeByte, State.writeBytes, List.append_assoc,
      List.singleton_append]
    rfl

/-- The transfer of the array rules, as a run over its bytes. -/
theorem exchangeAll_eq (out : Nat → Byte) (i n : Nat) :
    exchangeAll out i n =
      (((List.range n).map out).zipIdx 0).map fun x => .exchange x.1 (.rxBuf i x.2) := by
  apply List.ext_getElem?
  intro k
  simp only [exchangeAll, List.getElem?_map, List.getElem?_zipIdx]
  by_cases h : k < n
  · simp [List.getElem?_range h]
  · simp [h]

/-! ## Memory after a run of stores -/

theorem writeBytes_frame (s : State) (off : Nat) (bs : List Byte) :
    s.writeBytes off bs = { s with mem := (s.writeBytes off bs).mem } := by
  induction bs generalizing s off with
  | nil => rfl
  | cons b bs ih =>
    simp only [State.writeBytes]
    rw [ih (s.writeByte off b) (off + 1)]
    rfl

/-- What a byte reads as after consecutive stores to bytes that exist. -/
theorem readByte_writeBytes (s : State) (off a : Nat) (bs : List Byte)
    (he : ∀ k < bs.length, byteExists s.params (off + k) = true) :
    (s.writeBytes off bs).readByte a =
      if off ≤ a ∧ a < off + bs.length then bs.getD (a - off) 0 else s.readByte a := by
  induction bs generalizing s off with
  | nil => simp [State.writeBytes]
  | cons b bs ih =>
    have h0 : byteExists s.params off = true := he 0 (by simp)
    simp only [State.writeBytes]
    rw [ih (s.writeByte off b) (off + 1) (fun k hk => by
      have := he (k + 1) (by simpa using hk)
      simpa only [State.writeByte_params, Nat.add_assoc, Nat.add_comm 1 k] using this)]
    rw [readByte_writeByte]
    simp only [h0, and_true, List.length_cons]
    by_cases h1 : a = off
    · subst h1
      rw [if_neg (by omega), if_pos rfl, if_pos (by omega)]
      simp
    · by_cases h2 : off + 1 ≤ a ∧ a < off + 1 + bs.length
      · rw [if_pos h2, if_pos (by omega)]
        obtain ⟨j, rfl⟩ : ∃ j, a = off + 1 + j := ⟨a - (off + 1), by omega⟩
        rw [show off + 1 + j - (off + 1) = j by omega, show off + 1 + j - off = j + 1 by omega]
        simp
      · rw [if_neg h2, if_neg h1, if_neg (by omega)]

/-! ## One bracket -/

/-- The state after `Begin(i)`, the exchanges and `End()`, and the replies (R101); `keep` stores them in
`RXBUF`. -/
def opened (s : State) (i : Nat) : State := ((s.setMux (slaveChannel i)).settle).assertCs i

def bracketRun (s : State) (i : Nat) (out : List Byte) (keep : Bool) : State × List Byte :=
  let r := exchanges (opened s i) out
  ((if keep then r.1.writeBytes (rxBufBase + 8 * i) r.2 else r.1).raiseCs.endNow, r.2)

/-- The exchanges of a tier. -/
def tierSteps (i : Nat) (out : List Byte) (keep : Bool) : List Micro :=
  if keep then (out.zipIdx 0).map fun x => .exchange x.1 (.rxBuf i x.2)
  else out.map fun b => .exchange b .discard

/-- One bracket of an operation: its replies are the operation's local replies, and it has closed its
bracket. -/
theorem drain_bracket (s : State) (op : Instr) (rest : List Micro) (loc : Locals) (i : Nat)
    (out : List Byte) (keep : Bool) :
    drain (s.runningAt op (beginSteps i ++ tierSteps i out keep ++ endSteps ++ rest) loc) =
      drain ((bracketRun s i out keep).1.runningAt op rest
        { loc with replies := (bracketRun s i out keep).2, ownBracket := false }) := by
  simp only [beginSteps, List.cons_append, List.nil_append, drain_setMux, drain_settle, drain_assertCs,
    List.append_assoc]
  cases keep
  · simp only [tierSteps, Bool.false_eq_true, if_false]
    rw [drain_exchanges]
    simp only [endSteps, List.cons_append, List.nil_append, drain_raiseCs, drain_releaseCs]
    rfl
  · simp only [tierSteps, if_true]
    rw [drain_exchanges_kept]
    simp only [endSteps, List.cons_append, List.nil_append, drain_raiseCs, drain_releaseCs]
    rfl

theorem bracketRun_length (s : State) (i : Nat) (out : List Byte) (keep : Bool) :
    (bracketRun s i out keep).2.length = out.length := exchanges_length _ _

/-- What one bracket leaves unchanged, and the pins it ends with. -/
theorem bracketRun_frame (s : State) (i : Nat) (out : List Byte) (keep : Bool) :
    (bracketRun s i out keep).1 = { s with
      muxL := (slaveChannel i).extractLsb' 0 3
      muxU := (slaveChannel i).extractLsb' 3 3
      cs := .released
      bracket := .closed
      settledAt := s.now + s.params.tSettle
      mem := (bracketRun s i out keep).1.mem
      now := (bracketRun s i out keep).1.now
      lastByteEnd := (bracketRun s i out keep).1.lastByteEnd
      peers := (bracketRun s i out keep).1.peers
      draws := (bracketRun s i out keep).1.draws
      bus := (bracketRun s i out keep).1.bus } := by
  have h := exchanges_frame (opened s i) out
  cases keep
  · simp only [bracketRun, Bool.false_eq_true, if_false]
    rw [h]
    rfl
  · simp only [bracketRun, if_true]
    rw [writeBytes_frame, h]
    rfl

theorem extract_channel (ch : BitVec 6) :
    (ch.extractLsb' 3 3 ++ ch.extractLsb' 0 3 : BitVec 6) = ch := by
  revert ch
  decide

theorem bracketRun_bus (s : State) (i : Nat) (out : List Byte) (keep : Bool) :
    (bracketRun s i out keep).1.bus = s.bus ++
      (.asserted (slaveChannel i) :: List.zipWith BusEvent.byte out (bracketRun s i out keep).2 ++
        [.released]) := by
  have h := exchanges_bus (opened s i) out
  have h0 : (opened s i).bus = s.bus ++ [.asserted (slaveChannel i)] := by
    show s.bus ++ [BusEvent.asserted ((slaveChannel i).extractLsb' 3 3 ++
      (slaveChannel i).extractLsb' 0 3)] = _
    rw [extract_channel]
  have h1 : (bracketRun s i out keep).1.bus = (exchanges (opened s i) out).1.bus ++ [.released] := by
    cases keep
    · rfl
    · simp only [bracketRun, if_true]
      rw [writeBytes_frame]
      rfl
  rw [h1, h, h0]
  simp [bracketRun]

theorem bracketRun_others (s : State) (i j : Nat) (out : List Byte) (keep : Bool) (hj : j ≠ i) :
    (bracketRun s i out keep).1.peers[j]? = s.peers[j]? := by
  have h := exchanges_others (opened s i) i j out rfl hj
  have h0 : (opened s i).peers = s.peers := rfl
  rw [h0] at h
  cases keep
  · exact h
  · simp only [bracketRun, if_true]
    rw [writeBytes_frame]
    exact h

theorem bracketRun_time (s : State) (i : Nat) (out : List Byte) (keep : Bool) :
    s.now + (s.params.tSettle + (out.length - 1) * s.params.tIb) ≤ (bracketRun s i out keep).1.now := by
  have h := exchanges_time (opened s i) out
  have h0 : (opened s i).now = s.now + s.params.tSettle := rfl
  have h1 : (opened s i).params = s.params := rfl
  have h2 : (bracketRun s i out keep).1.now = (exchanges (opened s i) out).1.now := by
    cases keep
    · rfl
    · simp only [bracketRun, if_true]
      rw [writeBytes_frame]
      rfl
  rw [h2]
  rw [h0, h1] at h
  omega

/-- What memory reads as after one bracket. -/
theorem readByte_bracketRun (s : State) (i : Nat) (out : List Byte) (keep : Bool) (a : Nat)
    (hi : i < s.params.nSlaves) (hl : out.length ≤ 8) :
    (bracketRun s i out keep).1.readByte a =
      if keep = true ∧ rxBufBase + 8 * i ≤ a ∧ a < rxBufBase + 8 * i + out.length then
        (bracketRun s i out keep).2.getD (a - (rxBufBase + 8 * i)) 0
      else s.readByte a := by
  have hf := exchanges_frame (opened s i) out
  have hm : (exchanges (opened s i) out).1.mem = s.mem := by rw [hf]; rfl
  have hp : (exchanges (opened s i) out).1.params = s.params := by rw [hf]; rfl
  have hlen : (exchanges (opened s i) out).2.length = out.length := exchanges_length _ _
  cases keep
  · simp only [bracketRun, Bool.false_eq_true, if_false, false_and]
    exact readByte_congr s _ hm hp a
  · simp only [bracketRun, if_true, true_and]
    have he : ∀ k < (exchanges (opened s i) out).2.length,
        byteExists (exchanges (opened s i) out).1.params (rxBufBase + 8 * i + k) = true := by
      intro k hk
      have h1 : inRange rxBufBase (8 * s.params.nSlaves) (rxBufBase + 8 * i + k) = true := by
        simp only [inRange, Bool.and_eq_true, decide_eq_true_eq]
        omega
      simp [byteExists, hp, h1]
    have h := readByte_writeBytes (exchanges (opened s i) out).1 (rxBufBase + 8 * i) a
      (exchanges (opened s i) out).2 he
    rw [hlen, readByte_congr s _ hm hp a] at h
    exact h

/-! ## One bracket on each target -/

/-- The state after one bracket on each target, and the replies of each. -/
def bracketsRun (s : State) (out : List Byte) (keep : Bool) : List Nat → State × List (List Byte)
  | [] => (s, [])
  | i :: rest =>
    let b := bracketRun s i out keep
    let r := bracketsRun b.1 out keep rest
    (r.1, b.2 :: r.2)

theorem bracketsRun_nil (s : State) (out : List Byte) (keep : Bool) :
    (bracketsRun s out keep []).1 = s := rfl

theorem bracketsRun_cons (s : State) (out : List Byte) (keep : Bool) (i : Nat) (rest : List Nat) :
    (bracketsRun s out keep (i :: rest)).1 =
      (bracketsRun (bracketRun s i out keep).1 out keep rest).1 := rfl

/-- The local replies of the operation after the brackets: those of the last one. -/
def lastReplies (loc : List Byte) (replies : List (List Byte)) : List Byte := replies.getLastD loc

theorem drain_bracketAll (s : State) (op : Instr) (rest : List Micro) (loc : Locals) (out : List Byte)
    (keep : Bool) (targets : List Nat) (hl : loc.ownBracket = false) :
    drain (s.runningAt op (bracketAll (fun i => tierSteps i out keep) targets ++ rest) loc) =
      drain ((bracketsRun s out keep targets).1.runningAt op rest
        { loc with replies := lastReplies loc.replies (bracketsRun s out keep targets).2 }) := by
  induction targets generalizing s loc with
  | nil => rfl
  | cons i targets ih =>
    have e : bracketAll (fun i => tierSteps i out keep) (i :: targets) ++ rest =
        beginSteps i ++ tierSteps i out keep ++ endSteps ++
          (bracketAll (fun i => tierSteps i out keep) targets ++ rest) := by
      simp [bracketAll]
    rw [e, drain_bracket, ih _ _ rfl]
    simp only [bracketsRun, lastReplies, ← hl]
    rw [List.getLastD_cons]

theorem bracketsRun_lengths (s : State) (out : List Byte) (keep : Bool) (targets : List Nat) :
    (bracketsRun s out keep targets).2.map List.length = targets.map fun _ => out.length := by
  induction targets generalizing s with
  | nil => rfl
  | cons i targets ih => simp [bracketsRun, ih, bracketRun_length]

/-- What the brackets leave unchanged. -/
theorem bracketsRun_frame (s : State) (out : List Byte) (keep : Bool) (targets : List Nat) :
    (bracketsRun s out keep targets).1 = { s with
      muxL := (bracketsRun s out keep targets).1.muxL
      muxU := (bracketsRun s out keep targets).1.muxU
      cs := (bracketsRun s out keep targets).1.cs
      bracket := (bracketsRun s out keep targets).1.bracket
      settledAt := (bracketsRun s out keep targets).1.settledAt
      mem := (bracketsRun s out keep targets).1.mem
      now := (bracketsRun s out keep targets).1.now
      lastByteEnd := (bracketsRun s out keep targets).1.lastByteEnd
      peers := (bracketsRun s out keep targets).1.peers
      draws := (bracketsRun s out keep targets).1.draws
      bus := (bracketsRun s out keep targets).1.bus } := by
  induction targets generalizing s with
  | nil => rfl
  | cons i targets ih =>
    simp only [bracketsRun]
    rw [ih (bracketRun s i out keep).1, bracketRun_frame]

theorem bracketsRun_bus (s : State) (out : List Byte) (keep : Bool) (targets : List Nat) :
    (bracketsRun s out keep targets).1.bus = s.bus ++
      (List.zipWith (fun i r => BusEvent.asserted (slaveChannel i) ::
        List.zipWith BusEvent.byte out r ++ [.released]) targets
        (bracketsRun s out keep targets).2).flatten := by
  induction targets generalizing s with
  | nil => simp [bracketsRun]
  | cons i targets ih => simp [bracketsRun, ih, bracketRun_bus]

theorem bracketsRun_others (s : State) (out : List Byte) (keep : Bool) (targets : List Nat) (j : Nat)
    (hj : j ∉ targets) : (bracketsRun s out keep targets).1.peers[j]? = s.peers[j]? := by
  induction targets generalizing s with
  | nil => rfl
  | cons i targets ih =>
    simp only [List.mem_cons, not_or] at hj
    simp only [bracketsRun]
    rw [ih _ hj.2, bracketRun_others _ _ _ _ _ hj.1]

theorem bracketsRun_time (s : State) (out : List Byte) (keep : Bool) (targets : List Nat) :
    s.now + targets.length * (s.params.tSettle + (out.length - 1) * s.params.tIb) ≤
      (bracketsRun s out keep targets).1.now := by
  induction targets generalizing s with
  | nil => simp [bracketsRun]
  | cons i targets ih =>
    have h1 := bracketRun_time s i out keep
    have h2 := ih (bracketRun s i out keep).1
    have h3 : (bracketRun s i out keep).1.params = s.params := by rw [bracketRun_frame]
    rw [h3] at h2
    simp only [bracketsRun, List.length_cons, Nat.succ_mul]
    omega

/-- The pins after the brackets: closed, on the last target. -/
theorem bracketsRun_pins (s : State) (out : List Byte) (keep : Bool) (targets : List Nat) (i : Nat)
    (h : targets.getLast? = some i) :
    (bracketsRun s out keep targets).1.cs = .released ∧
      (bracketsRun s out keep targets).1.bracket = .closed ∧
      (bracketsRun s out keep targets).1.muxCh = slaveChannel i := by
  induction targets generalizing s with
  | nil => simp at h
  | cons k targets ih =>
    cases targets with
    | nil =>
      simp only [List.getLast?_singleton, Option.some.injEq] at h
      subst h
      rw [bracketsRun_cons, bracketsRun_nil]
      have f := bracketRun_frame s k out keep
      have c := congrArg State.cs f
      have b := congrArg State.bracket f
      have l := congrArg State.muxL f
      have u := congrArg State.muxU f
      dsimp only at c b l u
      refine ⟨c, b, ?_⟩
      have e : ∀ t : State, t.muxCh = t.muxU ++ t.muxL := fun _ => rfl
      rw [e, u, l]
      exact extract_channel _
    | cons l targets =>
      rw [List.getLast?_cons_cons] at h
      rw [bracketsRun_cons]
      exact ih (bracketRun s k out keep).1 h

/-- A byte outside the kept rows of the targets reads as before. -/
theorem readByte_bracketsRun_other (s : State) (out : List Byte) (keep : Bool) (targets : List Nat)
    (a : Nat) (ht : ∀ i ∈ targets, i < s.params.nSlaves) (hl : out.length ≤ 8)
    (ha : keep = true → ∀ i ∈ targets, ∀ k < out.length, a ≠ rxBufBase + 8 * i + k) :
    (bracketsRun s out keep targets).1.readByte a = s.readByte a := by
  induction targets generalizing s with
  | nil => rfl
  | cons i targets ih =>
    have hp : (bracketRun s i out keep).1.params = s.params := by rw [bracketRun_frame]
    simp only [bracketsRun]
    rw [ih _ (fun j hj => by rw [hp]; exact ht j (List.mem_cons_of_mem _ hj))
      (fun h j hj => ha h j (List.mem_cons_of_mem _ hj)),
      readByte_bracketRun s i out keep a (ht i List.mem_cons_self) hl]
    split
    · rename_i h
      exact absurd (show a = rxBufBase + 8 * i + (a - (rxBufBase + 8 * i)) by omega)
        (ha h.1 i List.mem_cons_self _ (by omega))
    · rfl

/-- The kept rows hold the replies. -/
theorem readByte_bracketsRun_row (s : State) (out : List Byte) (targets : List Nat)
    (ht : ∀ i ∈ targets, i < s.params.nSlaves) (hl : out.length ≤ 8) (hd : targets.Nodup)
    (j i : Nat) (r : List Byte) (hj : targets[j]? = some i)
    (hr : (bracketsRun s out true targets).2[j]? = some r) (k : Nat) (hk : k < out.length) :
    (bracketsRun s out true targets).1.readByte (rxBufBase + 8 * i + k) = r.getD k 0 := by
  induction targets generalizing s j with
  | nil => simp at hj
  | cons l targets ih =>
    have hp : (bracketRun s l out true).1.params = s.params := by rw [bracketRun_frame]
    rw [List.nodup_cons] at hd
    cases j with
    | zero =>
      simp only [List.getElem?_cons_zero, Option.some.injEq] at hj
      subst hj
      simp only [bracketsRun, List.getElem?_cons_zero, Option.some.injEq] at hr ⊢
      subst hr
      rw [readByte_bracketsRun_other _ _ _ _ _
        (fun m hm => by rw [hp]; exact ht m (List.mem_cons_of_mem _ hm)) hl
        (fun _ m hm q hq => by
          have : m ≠ l := fun h => hd.1 (h ▸ hm)
          omega),
        readByte_bracketRun s l out true _ (ht l List.mem_cons_self) hl, if_pos ⟨rfl, by omega⟩]
      simp
    | succ j =>
      simp only [List.getElem?_cons_succ, bracketsRun] at hj hr ⊢
      exact ih _ (fun m hm => by rw [hp]; exact ht m (List.mem_cons_of_mem _ hm)) hd.2 j hj hr

/-! ## One transaction -/

/-- The state after one transaction on slave `i`, and its replies (R119). -/
def transactionRun (s : State) (c d : Byte) (v : Half) (i : Nat) : State × List Byte :=
  let b := bracketRun s i (txnBytes c d v) false
  ((b.1.writeBytes (rxBufBase + 8 * i) b.2).updateRecord i c d v b.2, b.2)

/-- Stores in increasing order, as steps. -/
theorem drain_pokes (s : State) (op : Instr) (rest : List Micro) (loc : Locals) (off : Nat)
    (bs : List Byte) :
    drain (s.runningAt op ((List.range bs.length).map (fun k => .poke (off + k) (bs.getD k 0)) ++ rest)
      loc) = drain ((s.writeBytes off bs).runningAt op rest loc) := by
  induction bs generalizing s off with
  | nil => rfl
  | cons b bs ih =>
    rw [List.length_cons, List.range_succ_eq_map]
    simp only [List.map_cons, List.map_map, List.cons_append, drain_poke]
    have e : ∀ k, (Micro.poke (off + (k + 1)) ((b :: bs).getD (k + 1) 0)) =
        .poke (off + 1 + k) (bs.getD k 0) := fun k => by
      rw [show off + (k + 1) = off + 1 + k by omega]; rfl
    have h := ih (s.writeByte off b) (off + 1)
    simp only [Function.comp_def, Nat.succ_eq_add_one, e]
    exact h

theorem drain_transaction (s : State) (op : Instr) (rest : List Micro) (loc : Locals) (c d : Byte)
    (v : Half) (i : Nat) :
    drain (s.runningAt op (transactionSteps c d v i ++ rest) loc) =
      drain ((transactionRun s c d v i).1.runningAt op rest
        { loc with replies := (transactionRun s c d v i).2, ownBracket := false }) := by
  have e : transactionSteps c d v i ++ rest = beginSteps i ++ tierSteps i (txnBytes c d v) false ++
      endSteps ++ (.keepReplies i (txnBytes c d v).length :: .updateRecord i c d v :: rest) := by
    simp [transactionSteps, tierSteps]
  rw [e, drain_bracket, drain_keepReplies, ← bracketRun_length s i (txnBytes c d v) false, drain_pokes,
    drain_updateRecord]
  rfl

theorem transactionRun_length (s : State) (c d : Byte) (v : Half) (i : Nat) :
    (transactionRun s c d v i).2.length = (txnBytes c d v).length :=
  bracketRun_length s i _ false

/-! ## The brackets as the statements say them -/

theorem opened_eq_begun (s : State) (i : Nat) : opened s i = begun s i := by
  have h0 : (slaveChannel i).extractLsb' 0 3 = BitVec.ofNat 3 ((i + 37) % 8) := by
    apply BitVec.eq_of_toNat_eq
    simp only [slaveChannel, Config.slaveChBase, BitVec.extractLsb'_toNat, BitVec.toNat_ofNat,
      Nat.shiftRight_zero]
    omega
  have h3 : (slaveChannel i).extractLsb' 3 3 = BitVec.ofNat 3 ((i + 37) / 8) := by
    apply BitVec.eq_of_toNat_eq
    simp only [slaveChannel, Config.slaveChBase, BitVec.extractLsb'_toNat, BitVec.toNat_ofNat,
      Nat.shiftRight_eq_div_pow]
    omega
  have hc : (opened s i).bus = s.bus ++ [.asserted (BitVec.ofNat 6 (i + 37))] := by
    show s.bus ++ [BusEvent.asserted ((slaveChannel i).extractLsb' 3 3 ++
      (slaveChannel i).extractLsb' 0 3)] = _
    rw [extract_channel]
    rfl
  have hs : opened s i = { opened s i with bus := (opened s i).bus } := rfl
  rw [hs, hc]
  simp only [opened, State.setMux, State.settle, State.assertCs, h0, h3, begun]

theorem bracketRun_eq_bracketOn (s : State) (i : Nat) (out : List Byte) :
    bracketRun s i out false = bracketOn s i out := by
  simp only [bracketRun, Bool.false_eq_true, if_false, bracketOn, opened_eq_begun]
  rfl

/-- Buffers, registers and streams do not show in what an exchange does. -/
theorem exchange_sameSpi {s t : State} (h : SameSpi s t) (out : Byte) :
    SameSpi (s.exchange out) (t.exchange out) ∧ t.replyByte out = s.replyByte out := by
  have hb : t.byteStart = s.byteStart := by simp only [State.byteStart, h.lastByteEnd, h.now, h.params]
  have hr : t.busReply out = s.busReply out := by
    simp only [State.busReply, State.peerReply, State.selects, State.muxCh, hb, h.bracket, h.draws,
      h.peers, h.params, h.cs, h.muxU, h.muxL, h.settledAt, h.now]
    rfl
  refine ⟨⟨h.params, h.muxL, h.muxU, h.cs, h.bracket, ?_, ?_, ?_, h.settledAt, ?_, ?_⟩, ?_⟩ <;>
    simp only [State.exchange, State.replyByte, hb, hr, h.bus]

theorem exchanges_sameSpi {s t : State} (h : SameSpi s t) (out : List Byte) :
    SameSpi (exchanges s out).1 (exchanges t out).1 ∧ (exchanges t out).2 = (exchanges s out).2 := by
  induction out generalizing s t with
  | nil => exact ⟨h, rfl⟩
  | cons b rest ih =>
    have h1 := exchange_sameSpi h b
    have h2 := ih h1.1
    exact ⟨h2.1, by simp only [exchanges, h1.2, h2.2]⟩

theorem bracketOn_sameSpi {s t : State} (h : SameSpi s t) (i : Nat) (out : List Byte) :
    SameSpi (bracketOn s i out).1 (bracketOn t i out).1 ∧ (bracketOn t i out).2 = (bracketOn s i out).2 := by
  have h1 : SameSpi (begun s i) (begun t i) := by
    refine ⟨h.params, rfl, rfl, rfl, rfl, rfl, h.peers, ?_, ?_, h.draws, ?_⟩ <;>
      simp only [begun, h.now, h.params, h.bus]
  have h2 := exchanges_sameSpi h1 out
  refine ⟨⟨h2.1.params, h2.1.muxL, h2.1.muxU, rfl, rfl, h2.1.lastByteEnd, h2.1.peers, h2.1.now,
    h2.1.settledAt, h2.1.draws, ?_⟩, h2.2⟩
  simp only [bracketOn, released, h2.1.bus]

theorem bracketsOn_sameSpi {s t : State} (h : SameSpi s t) (l : List (Nat × List Byte)) :
    SameSpi (bracketsOn s l).1 (bracketsOn t l).1 ∧ (bracketsOn t l).2 = (bracketsOn s l).2 := by
  induction l generalizing s t with
  | nil => exact ⟨h, rfl⟩
  | cons x l ih =>
    have h1 := bracketOn_sameSpi h x.1 x.2
    have h2 := ih h1.1
    exact ⟨h2.1, by simp only [bracketsOn, h1.2, h2.2]⟩

/-- Storing the replies changes nothing of the SPI side. -/
theorem bracketRun_sameSpi (s : State) (i : Nat) (out : List Byte) (keep : Bool) :
    SameSpi (bracketOn s i out).1 (bracketRun s i out keep).1 ∧
      (bracketRun s i out keep).2 = (bracketOn s i out).2 := by
  rw [← bracketRun_eq_bracketOn]
  cases keep
  · exact ⟨SameSpi.refl _, rfl⟩
  · refine ⟨?_, rfl⟩
    simp only [bracketRun, if_true, Bool.false_eq_true, if_false]
    rw [writeBytes_frame]
    exact ⟨rfl, rfl, rfl, rfl, rfl, rfl, rfl, rfl, rfl, rfl, rfl⟩

/-- One bracket on each target is what `Brackets` says of it. -/
theorem bracketsRun_sameSpi (s : State) (out : List Byte) (keep : Bool) (targets : List Nat) :
    SameSpi (bracketsOn s (targets.zip (targets.map fun _ => out))).1 (bracketsRun s out keep targets).1 ∧
      (bracketsRun s out keep targets).2 = (bracketsOn s (targets.zip (targets.map fun _ => out))).2 := by
  induction targets generalizing s with
  | nil => exact ⟨SameSpi.refl _, rfl⟩
  | cons i targets ih =>
    have h1 := bracketRun_sameSpi s i out keep
    have h2 := ih (bracketRun s i out keep).1
    have h3 := bracketsOn_sameSpi h1.1 (targets.zip (targets.map fun _ => out))
    refine ⟨h3.1.trans h2.1, ?_⟩
    simp only [bracketsRun, List.map_cons, List.zip_cons_cons, bracketsOn, h1.2, h2.2, h3.2]

theorem writeHalf_sameSpi (s : State) (off : Nat) (v : Half) : SameSpi s (s.writeHalf off v) :=
  ⟨rfl, rfl, rfl, rfl, rfl, rfl, rfl, rfl, rfl, rfl, rfl⟩

theorem updateRecord_sameSpi (s : State) (i : Nat) (c d : Byte) (v : Half) (r : List Byte) :
    SameSpi s (s.updateRecord i c d v r) := by
  have h0 : SameSpi s (if c = 1 then s.writeHalf (slaveRecBase + 8 * i + 6) v else s) := by
    split
    · exact writeHalf_sameSpi _ _ _
    · exact SameSpi.refl s
  simp only [State.updateRecord]
  generalize (if c = 1 then s.writeHalf (slaveRecBase + 8 * i + 6) v else s) = u at h0
  have h1 := fun off w => h0.trans (writeHalf_sameSpi u off w)
  split
  · exact h1 _ _
  · split
    · exact h1 _ _
    · split
      · exact h1 _ _
      · split
        · exact ((h1 _ _).trans (writeHalf_sameSpi _ _ _)).trans (writeHalf_sameSpi _ _ _)
        · exact h0

theorem writeBytes_sameSpi (s : State) (off : Nat) (bs : List Byte) : SameSpi s (s.writeBytes off bs) := by
  rw [writeBytes_frame]
  exact ⟨rfl, rfl, rfl, rfl, rfl, rfl, rfl, rfl, rfl, rfl, rfl⟩

theorem transactionRun_sameSpi (s : State) (c d : Byte) (v : Half) (i : Nat) :
    SameSpi (bracketOn s i (txnBytes c d v)).1 (transactionRun s c d v i).1 ∧
      (transactionRun s c d v i).2 = (bracketOn s i (txnBytes c d v)).2 := by
  have h := bracketRun_sameSpi s i (txnBytes c d v) false
  exact ⟨(h.1.trans (writeBytes_sameSpi _ _ _)).trans (updateRecord_sameSpi _ _ _ _ _ _), h.2⟩

end Sys2Proof.Machine
end

