-- ==== Sys2Proof/Laws/Exec.lean ====
section
/-! SUPPORT. What `exec` does, said once for every operation, and the small lemmas that carry its result
into the terms of the statements: refusals, bytes and halves, the targets of a slave operand, the
stores of `TxnUpdate`. -/

namespace Sys2Proof.Machine

open Sys2Proof.Safety

/-- Every operation answers a next state: `SRST` at once, another one `E_BUSY` or its own steps. -/
theorem exec_eq (i : Instr) (s : State) : exec i s = .next (if i = .srst then s.softReset
    else if s.busy then s.record .busy 0x00C else drain (accept i (stepsOf i s) s)) := by
  cases i <;> rfl

theorem busy_of_idle (s : State) (h : Idle s) : s.busy = false := by
  simp [State.busy, show s.seq = .idle from h]

theorem idle_of_not_busy (s : State) (h : s.busy = false) : Idle s := by
  simp only [State.busy] at h
  split at h
  · assumption
  · cases h

/-- On an idle block, an operation other than `SRST` is its steps, run. -/
theorem exec_idle (i : Instr) (s : State) (h : Idle s) (hn : i ≠ .srst) :
    exec i s = .next (drain (s.runningAt i (stepsOf i s) {})) := by
  rw [exec_eq, if_neg hn, busy_of_idle s h, if_neg (by simp), drain_accept]

theorem finish_idle (s : State) (h : s.seq = .idle) : s.finish = { s with done := true } := by
  cases s
  simp only at h
  subst h
  rfl

/-- `raise` by an operation that opened no bracket, in the terms of the statements. -/
theorem raiseError_idle (s : State) (h : Idle s) (k : ErrorKind) (n : Nat) :
    s.raiseError k (toHalf n) {} = refusal s k n := by
  have h' : (s.record k (BitVec.ofNat 16 n)).seq = .idle := h
  simp only [State.raiseError, Bool.false_and]
  exact finish_idle _ h'

theorem zext_eq (b : Byte) : zext b = BitVec.ofNat 16 b.toNat := by
  apply BitVec.eq_of_toNat_eq
  simp [zext]

theorem half_eq (low high : Byte) : half low high = BitVec.ofNat 16 (low.toNat + 256 * high.toNat) := by
  apply BitVec.eq_of_toNat_eq
  have := low.isLt
  have := high.isLt
  simp only [half, BitVec.toNat_append, BitVec.toNat_ofNat]
  rw [← Nat.shiftLeft_add_eq_or_of_lt low.isLt, Nat.shiftLeft_eq]
  omega

theorem lo_eq (v : Half) : lo v = lowByte v := by
  apply BitVec.eq_of_toNat_eq
  simp [lo, lowByte]

theorem hi_eq (v : Half) : hi v = highByte v := by
  apply BitVec.eq_of_toNat_eq
  simp [hi, highByte, Nat.shiftRight_eq_div_pow]

/-- `SetMux` puts the channel on the pins. -/
theorem setMux_muxCh (ch : BitVec 6) (s : State) : (s.setMux ch).muxCh = ch := by
  show (ch.extractLsb' 3 3 ++ ch.extractLsb' 0 3 : BitVec 6) = ch
  revert ch
  decide

/-- An operand that names no slave has no targets. -/
theorem targets_unknown (s : State) (a : Byte) (h : Unknown s a) : s.targets a = none := by
  have hl : s.lookupSlave a = none := by
    simp only [State.lookupSlave, List.find?_eq_none, State.indices, List.mem_range, decide_eq_true_eq]
    exact h.2
  have ha : a ≠ 255#8 := h.1
  simp [State.targets, ha, hl]

/-- The targets of an operand are what the machine's lookup gives, each an index, none twice. -/
theorem targets_known (s : State) (a : Byte) (l : List Nat) (h : Targets s a l) :
    s.targets a = some l ∧ (∀ i ∈ l, i < s.params.nSlaves) ∧ l.Nodup := by
  rcases h with ⟨rfl, rfl⟩ | ⟨h1, i, hi, h2, h3, rfl⟩
  · exact ⟨by simp [State.targets, State.indices], by simp, List.nodup_range⟩
  · have hl : s.lookupSlave a = some i := by
      rw [State.lookupSlave, State.indices, List.find?_range_eq_some]
      refine ⟨decide_eq_true h2, by simpa using hi, fun j hj => ?_⟩
      exact congrArg not (decide_eq_false (h3 j hj))
    have ha : a ≠ 255#8 := h1
    simp [State.targets, ha, hl, hi]

/-- A property that every 16-bit store into `SLAVEREC` keeps is kept by `TxnUpdate`. -/
theorem updateRecord_induct (P : State → Prop)
    (hw : ∀ t off x, slaveRecBase ≤ off → P t → P (t.writeHalf off x)) (s : State) (h : P s)
    (i : Nat) (c d : Byte) (v : Half) (r : List Byte) : P (s.updateRecord i c d v r) := by
  have h1 : P (if c = 1 then s.writeHalf (slaveRecBase + 8 * i + 6) v else s) := by
    split
    · exact hw _ _ _ (by omega) h
    · exact h
  unfold State.updateRecord
  dsimp only
  split
  · exact hw _ _ _ (by omega) h1
  · split
    · exact hw _ _ _ (by omega) h1
    · split
      · exact hw _ _ _ (by omega) h1
      · split
        · exact hw _ _ _ (by omega) (hw _ _ _ (by omega) (hw _ _ _ (by omega) h1))
        · exact h1

/-- `E_BUSY`, `E_ILLEGAL` and every error of R144 set their own bit, which is never zero. -/
theorem mask_ne_zero (k : ErrorKind) : k.mask ≠ 0 := by cases k <;> decide

/-! ## What the acceptance of an operation does -/

/-- The step stores a byte given in it. -/
def Micro.isPoke : Micro → Bool
  | .poke _ _ => true
  | _ => false

/-- No step of the list is such a store. -/
def noPoke (l : List Micro) : Bool := l.all fun m => !m.isPoke

@[simp] theorem noPoke_nil : noPoke [] = true := rfl
@[simp] theorem noPoke_cons (m : Micro) (l : List Micro) : noPoke (m :: l) = (!m.isPoke && noPoke l) := rfl
@[simp] theorem noPoke_append (l k : List Micro) : noPoke (l ++ k) = (noPoke l && noPoke k) :=
  List.all_append ..
@[simp] theorem noPoke_rangeFlag (x : Half) (full : Nat) : noPoke (rangeFlag x full) = true := by
  unfold rangeFlag
  split <;> rfl
@[simp] theorem noPoke_exchangeAll (out : Nat → Byte) (i n : Nat) : noPoke (exchangeAll out i n) = true := by
  simp [noPoke, exchangeAll, Micro.isPoke]
@[simp] theorem noPoke_checkCount (n : Nat) : noPoke (checkCount n) = true := by
  unfold checkCount
  split <;> rfl

theorem noPoke_flatMap {α : Type} (l : List α) (f : α → List Micro) (h : ∀ a, noPoke (f a) = true) :
    noPoke (l.flatMap f) = true := by
  simpa [noPoke, List.all_flatMap] using fun a _ => by simpa [noPoke] using h a

theorem noPoke_bracketed (a : Byte) (check : List Micro) (tier : Nat → List Micro) (outcome : Nat → Micro)
    (s : State) (hc : noPoke check = true) (ht : ∀ i, noPoke (tier i) = true)
    (ho : ∀ n, (outcome n).isPoke = false) : noPoke (bracketed a check tier outcome s) = true := by
  unfold bracketed bracketAll
  split
  · rfl
  split
  · exact hc
  split
  · rfl
  · rw [noPoke_append, noPoke_flatMap _ _ fun i => by simp [beginSteps, endSteps, ht, Micro.isPoke]]
    simp [ho]

theorem replyOr_isPoke (a : Byte) (m : Micro) (n : Nat) (h : m.isPoke = false) :
    (replyOr a m n).isPoke = false := by
  unfold replyOr
  split
  · rfl
  · exact h

/-- At its acceptance an operation is started; `RDBATCH`, `SWAP` and `CLRBATCH` may clear a batch count
with it, and nothing else is stored (log 4). -/
theorem accept_cases (i : Instr) (s : State) :
    accept i (stepsOf i s) s = s.started i (stepsOf i s) ∨
    ∃ off rest, stepsOf i s = .poke off 0 :: rest ∧
      accept i (stepsOf i s) s = (s.writeByte off 0).started i rest ∧
      ((off = 0x300 ∧ (i = .rdbatch ∨ i = .clrbatch 1)) ∨
        (off = 0x400 ∧ (i = .swap ∨ i = .clrbatch 0))) := by
  have free : noPoke (stepsOf i s) = true → accept i (stepsOf i s) s = s.started i (stepsOf i s) := by
    intro h
    unfold accept
    split
    · rename_i e
      rw [e] at h
      cases h
    · rfl
  cases i
  case swap =>
    simp only [stepsOf, stepsSwap]
    split
    · exact .inl rfl
    split
    · exact .inl rfl
    split
    · exact .inl rfl
    · exact .inr ⟨_, _, rfl, rfl, by simp [sensBatchBase]⟩
  case rdbatch => exact .inr ⟨_, _, rfl, rfl, by simp [cmdBatchBase]⟩
  case clrbatch k =>
    simp only [stepsOf, stepsClrbatch]
    split
    · exact .inr ⟨_, _, rfl, rfl, by simp_all [sensBatchBase]⟩
    split
    · exact .inr ⟨_, _, rfl, rfl, by simp_all [cmdBatchBase]⟩
    · exact .inl rfl
  case swr8 => exact .inl (free (noPoke_bracketed _ _ _ _ _ rfl (fun _ => rfl) fun _ => rfl))
  case srd8 =>
    exact .inl (free (noPoke_bracketed _ _ _ _ _ rfl (by simp) fun _ => replyOr_isPoke _ _ _ rfl))
  case srw8 =>
    exact .inl (free (noPoke_bracketed _ _ _ _ _ rfl (by simp) fun _ => replyOr_isPoke _ _ _ rfl))
  case swr16 => exact .inl (free (noPoke_bracketed _ _ _ _ _ rfl (fun _ => rfl) fun _ => rfl))
  case srd16 =>
    exact .inl (free (noPoke_bracketed _ _ _ _ _ rfl (by simp) fun _ => replyOr_isPoke _ _ _ rfl))
  case srw16 =>
    exact .inl (free (noPoke_bracketed _ _ _ _ _ rfl (by simp) fun _ => replyOr_isPoke _ _ _ rfl))
  case swrn =>
    exact .inl (free (noPoke_bracketed _ _ _ _ _ (noPoke_checkCount _)
      (by simp [noPoke, Micro.isPoke]) fun _ => rfl))
  case srdn =>
    exact .inl (free (noPoke_bracketed _ _ _ _ _ (noPoke_checkCount _) (by simp) fun _ => rfl))
  case srwn =>
    exact .inl (free (noPoke_bracketed _ _ _ _ _ (noPoke_checkCount _) (by simp) fun _ => rfl))
  case txn a v =>
    refine .inl (free ?_)
    simp only [stepsOf, stepsTxn]
    split
    · rfl
    split
    · rfl
    · rw [noPoke_append, noPoke_flatMap _ _ fun i => by
        simp [transactionSteps, beginSteps, endSteps, noPoke, Micro.isPoke]]
      split <;> rfl
  case xfern n =>
    refine .inl (free ?_)
    simp only [stepsOf, stepsXfern]
    split
    · rfl
    split
    · simp [Micro.isPoke]
    · rfl
  case wrbatch =>
    refine .inl (free ?_)
    simp only [stepsOf, stepsWrbatch]
    split
    · rfl
    · simp [noPoke, Micro.isPoke]
  all_goals
    refine .inl (free ?_)
    simp only [stepsOf, stepsU10to16, stepsU16to10, stepsU10to12, stepsU12to10, stepsU12to16, stepsU16to12,
      rescaleSteps, stepsClamp12, stepsAdc2v, stepsDacwr, stepsMuxsel, stepsAdcsample, selectSteps, stepsBegin,
      stepsEnd, stepsXfer8, stepsXfer16, stepsMirror, mirrorSteps, stepsCksumtx, stepsPutrec]
    first
      | rfl
      | (repeat' split) <;> simp [Micro.isPoke, beginSteps, endSteps]

end Sys2Proof.Machine
end

