-- ==== Sys2Proof/Laws/Framing.lean ====
section
/-! SUPPORT. What the receive side of the framing engine does, said once: the search for a marker over
the bytes the host has sent (47_framing.md R132), and the loops that take a frame's bytes and give
one away (R135, R136). -/

namespace Sys2Proof.Machine

open Sys2Proof.Safety

/-! ## The window of a search -/

theorem markerLen_pos (s : State) : 1 ≤ markerLen s := by
  unfold markerLen
  split <;> omega

theorem windowAfter_zero (s : State) : windowAfter s 0 = List.replicate (markerLen s) 0 := by
  simp [windowAfter]

/-- One more byte is shifted in. -/
theorem windowAfter_succ (s : State) (n : Nat) (b : Byte) (h : s.rx[n]? = some b) :
    windowAfter s (n + 1) = (windowAfter s n).drop 1 ++ [b] := by
  obtain ⟨hn, hb⟩ := List.getElem?_eq_some_iff.1 h
  have hp := markerLen_pos s
  have ht : s.rx.take (n + 1) = s.rx.take n ++ [b] := by rw [List.take_add_one, h]; rfl
  simp only [windowAfter, ht, ← List.append_assoc]
  rw [List.drop_append_of_le_length (by simp; omega), List.drop_drop]

/-- A byte of the window: a byte taken, or a zero of the cleared window. -/
theorem windowAfter_getElem? (s : State) (n i : Nat) :
    (windowAfter s n)[i]? = if n + i < markerLen s then some 0 else (s.rx.take n)[n + i - markerLen s]? := by
  simp only [windowAfter, List.getElem?_drop, List.getElem?_append, List.length_replicate]
  split
  · rw [List.getElem?_replicate, if_pos (by assumption)]
  · rfl

/-- The window is a marker exactly where the last bytes taken are one. -/
theorem markerSeen_iff (s t : State) (n : Nat) (hn : n ≤ s.rx.length) (hw : t.window = windowAfter s n) :
    t.markerSeen = true ↔ MarkerAt (markerLen s) s.rx n := by
  have hp := markerLen_pos s
  have hlen : (windowAfter s n).length = markerLen s := by
    simp only [windowAfter, List.length_drop, List.length_append, List.length_replicate,
      List.length_take]
    omega
  rw [State.markerSeen, hw, List.all_eq_true]
  constructor
  · intro h
    have hall : ∀ i < markerLen s, (windowAfter s n)[i]? = some 0xFF := by
      intro i hi
      have hl : i < (windowAfter s n).length := by omega
      rw [List.getElem?_eq_getElem hl]
      simpa using h _ (List.getElem_mem hl)
    have h0 : markerLen s ≤ n := by
      by_contra hc
      have := hall 0 (by omega)
      rw [windowAfter_getElem? s n 0, if_pos (by omega)] at this
      exact absurd this (by decide)
    refine ⟨h0, hn, fun j h1 h2 => ?_⟩
    have := hall (j + markerLen s - n) (by omega)
    rw [windowAfter_getElem? s n, if_neg (by omega),
      List.getElem?_take_of_lt (by omega)] at this
    rwa [show n + (j + markerLen s - n) - markerLen s = j by omega] at this
  · rintro ⟨h0, -, h⟩ b hb
    obtain ⟨i, hi, rfl⟩ := List.getElem_of_mem hb
    have hg := windowAfter_getElem? s n i
    rw [if_neg (by omega), List.getElem?_take_of_lt (by omega), h _ (by omega) (by omega),
      List.getElem?_eq_getElem hi] at hg
    simpa using hg

/-- A window that holds a marker holds 0xFF only. -/
theorem windowAfter_marker (s : State) (n : Nat) (h : MarkerAt (markerLen s) s.rx n) :
    windowAfter s n = List.replicate (markerLen s) 0xFF := by
  apply List.ext_getElem?
  intro i
  have hp := markerLen_pos s
  by_cases hi : i < markerLen s
  · have := h.1
    rw [windowAfter_getElem? s n i, if_neg (by omega), List.getElem?_take_of_lt (by omega),
      h.2.2 _ (by omega) (by omega), List.getElem?_replicate, if_pos hi]
  · rw [List.getElem?_eq_none, List.getElem?_eq_none]
    · simp; omega
    · have := h.2.1
      simp only [windowAfter, List.length_drop, List.length_append, List.length_replicate,
        List.length_take]
      omega

/-! ## The search -/

/-- The search of `s` has taken `n` bytes. -/
def State.searched (s : State) (n : Nat) : State :=
  { s with rx := s.rx.drop n, window := windowAfter s n }

/-- The search goes on: neither a marker nor the end of the limit before `n` bytes. -/
def Searching (s : State) (n : Nat) : Prop :=
  (∀ m < n, ¬ MarkerAt (markerLen s) s.rx m) ∧ (s.syncLim = 0 ∨ n ≤ s.syncLim.toNat)

theorem searchSpent_iff (s t : State) (n : Nat) (h : t.syncLim = s.syncLim) :
    t.searchSpent n = true ↔ s.syncLim ≠ 0 ∧ s.syncLim.toNat ≤ n := by
  simp [State.searchSpent, h]

/-- One byte of a search that goes on. -/
theorem drain_search_byte (s : State) (op : Instr) (rest : List Micro) (loc : Locals) (n : Nat)
    (hn : n < s.rx.length) :
    drain ((s.searched n).runningAt op (.searchByte :: rest) { loc with taken := n }) =
      if (s.searched (n + 1)).markerSeen then
        drain ((s.searched (n + 1)).runningAt op rest { loc with taken := n + 1 })
      else if s.syncLim ≠ 0 ∧ s.syncLim.toNat ≤ n + 1 then
        (s.searched (n + 1)).raiseError .desync (toHalf (n + 1)) { loc with taken := n }
      else
        drain ((s.searched (n + 1)).runningAt op (.searchByte :: rest) { loc with taken := n + 1 }) := by
  have hb : s.rx[n]? = some s.rx[n] := List.getElem?_eq_getElem hn
  have hrx : (s.searched n).rx = s.rx[n] :: s.rx.drop (n + 1) := List.drop_eq_getElem_cons hn
  have ht : ({ s.searched n with rx := s.rx.drop (n + 1) } : State).shiftWindow s.rx[n] =
      s.searched (n + 1) := by
    simp only [State.shiftWindow, State.searched]
    rw [windowAfter_succ s n _ hb]
  rw [drain_searchByte _ _ _ _ _ _ hrx]
  dsimp only
  rw [ht]
  have hs := searchSpent_iff s (s.searched (n + 1)) (n + 1) rfl
  split
  · rfl
  · by_cases h2 : s.syncLim ≠ 0 ∧ s.syncLim.toNat ≤ n + 1
    · rw [if_pos (hs.2 h2), if_pos h2]
    · rw [if_neg (fun h => h2 (hs.1 h)), if_neg h2]

/-- A search sees a marker exactly where there is one. -/
theorem searched_marker (s : State) (n : Nat) (hn : n ≤ s.rx.length) :
    (s.searched n).markerSeen = true ↔ MarkerAt (markerLen s) s.rx n :=
  markerSeen_iff s (s.searched n) n hn rfl

/-- A search reaches every point before its first marker and within its limit. -/
theorem drain_search_reaches (s : State) (op : Instr) (rest : List Micro) (loc : Locals) (n : Nat)
    (hn : n ≤ s.rx.length) (hm : ∀ m ≤ n, ¬ MarkerAt (markerLen s) s.rx m)
    (hl : s.syncLim = 0 ∨ n < s.syncLim.toNat) :
    drain ((s.searched 0).runningAt op (.searchByte :: rest) { loc with taken := 0 }) =
      drain ((s.searched n).runningAt op (.searchByte :: rest) { loc with taken := n }) := by
  induction n with
  | zero => rfl
  | succ k ih =>
    rw [ih (by omega) (fun m h => hm m (by omega)) (hl.imp id fun h => by omega),
      drain_search_byte s op rest loc k (by omega),
      if_neg (fun h => hm _ le_rfl ((searched_marker s _ hn).1 h)), if_neg]
    rintro ⟨h1, h2⟩
    rcases hl with hl | hl
    · exact h1 hl
    · omega

theorem not_markerAt_zero (s : State) (rx : List Byte) : ¬ MarkerAt (markerLen s) rx 0 := by
  intro h
  have := markerLen_pos s
  have := h.1
  omega

/-- `Sync()` finds the first marker (R132). -/
theorem drain_search_found (s : State) (op : Instr) (rest : List Micro) (loc : Locals) (n : Nat)
    (h : FoundAt s n) :
    drain (s.runningAt op (searchSteps ++ rest) loc) =
      drain (({ s with
        rx := s.rx.drop n
        window := List.replicate (markerLen s) 0xFF } : State).runningAt op rest
        { loc with taken := n }) := by
  obtain ⟨hm, hf, hl⟩ := h
  have hp := markerLen_pos s
  obtain ⟨k, rfl⟩ : ∃ k, n = k + 1 := ⟨n - 1, by have := hm.1; omega⟩
  have hs : s.searched (k + 1) = { s with
      rx := s.rx.drop (k + 1)
      window := List.replicate (markerLen s) 0xFF } := by
    rw [State.searched, windowAfter_marker s _ hm]
  rw [← hs]
  simp only [searchSteps, List.cons_append, List.nil_append, drain_startSearch]
  have h0 : s.startSearch = s.searched 0 := by
    rw [State.searched, windowAfter_zero]
    rfl
  have hlen := hm.2.1
  rw [h0, drain_search_reaches s op rest loc k (by omega) (fun m h => hf m (by omega))
    (hl.imp id fun h => by omega), drain_search_byte s op rest loc k (by omega),
    if_pos ((searched_marker s _ hlen).2 hm)]

/-- `Sync()` spends its limit (R132). -/
theorem drain_search_fails (s : State) (op : Instr) (rest : List Micro) (loc : Locals)
    (h : SearchFails s) :
    drain (s.runningAt op (searchSteps ++ rest) loc) =
      ({ s with
        rx := s.rx.drop s.syncLim.toNat
        window := windowAfter s s.syncLim.toNat } : State).raiseError .desync
        (toHalf s.syncLim.toNat) { loc with taken := s.syncLim.toNat - 1 } := by
  obtain ⟨h1, h2, h3⟩ := h
  have hpos : s.syncLim.toNat ≠ 0 := fun h => h1 (BitVec.eq_of_toNat_eq h)
  obtain ⟨k, hk⟩ : ∃ k, s.syncLim.toNat = k + 1 := ⟨s.syncLim.toNat - 1, by omega⟩
  simp only [searchSteps, List.cons_append, List.nil_append, drain_startSearch]
  have h0 : s.startSearch = s.searched 0 := by
    rw [State.searched, windowAfter_zero]
    rfl
  rw [h0, drain_search_reaches s op rest loc k (by omega) (fun m h => h3 m (by omega))
    (.inr (by omega)), drain_search_byte s op rest loc k (by omega),
    if_neg (fun h => h3 _ (by omega) ((searched_marker s _ (by omega)).1 h)),
    if_pos ⟨h1, by omega⟩, hk]
  rfl

/-- `Sync()` takes every byte and waits (R132, 20_memory.md R57). -/
theorem drain_search_waits (s : State) (op : Instr) (rest : List Micro) (loc : Locals)
    (h : SearchWaits s) :
    drain (s.runningAt op (searchSteps ++ rest) loc) =
      ({ s with rx := [], window := windowAfter s s.rx.length } : State).runningAt op
        (.searchByte :: rest) { loc with taken := s.rx.length } := by
  obtain ⟨h1, h2⟩ := h
  simp only [searchSteps, List.cons_append, List.nil_append, drain_startSearch]
  have h0 : s.startSearch = s.searched 0 := by
    rw [State.searched, windowAfter_zero]
    rfl
  have hs : s.searched s.rx.length = { s with rx := [], window := windowAfter s s.rx.length } := by
    simp [State.searched]
  rw [h0, drain_search_reaches s op rest loc s.rx.length le_rfl (fun m _ => h2 m) h1, hs,
    drain_waits _ _ _ _ _ rfl rfl]

/-! ## The bytes of a frame -/

/-- The bytes of a frame's records go to consecutive offsets (R135). -/
theorem drain_takeAll (s : State) (op : Instr) (rest : List Micro) (loc : Locals) (off : Nat)
    (bs more : List Byte) (hr : s.rx = bs ++ more) :
    drain (s.runningAt op ((List.range bs.length).map (fun j => Micro.takeInto (off + j)) ++ rest) loc) =
      drain ((State.writeBytes off bs { s with rx := more }).runningAt op rest loc) := by
  induction bs generalizing s off with
  | nil =>
    have : s = { s with rx := more } := by
      cases s
      simp only at hr
      subst hr
      rfl
    simp only [List.length_nil, List.range_zero, List.map_nil, List.nil_append, State.writeBytes]
    rw [← this]
  | cons b bs ih =>
    simp only [List.length_cons, List.range_succ_eq_map, List.map_cons, List.map_map,
      List.cons_append, Nat.add_zero]
    rw [drain_takeInto s op _ loc off b (bs ++ more) hr]
    have hf : (List.range bs.length).map ((fun j => Micro.takeInto (off + j)) ∘ Nat.succ) =
        (List.range bs.length).map fun j => Micro.takeInto (off + 1 + j) := by
      apply List.map_congr_left
      intro j _
      simp only [Function.comp_apply, Nat.succ_eq_add_one]
      congr 1
      omega
    rw [hf, ih _ (off + 1) rfl]
    rfl

/-- Bytes given to the host in order (R136). -/
theorem drain_transmitAll (s : State) (op : Instr) (rest : List Micro) (loc : Locals) (bs : List Byte) :
    drain (s.runningAt op (bs.map Micro.transmit ++ rest) loc) =
      drain (({ s with tx := s.tx ++ bs } : State).runningAt op rest loc) := by
  induction bs generalizing s with
  | nil => simp
  | cons b bs ih =>
    simp only [List.map_cons, List.cons_append, drain_transmit]
    rw [ih]
    simp only [State.transmit, List.append_assoc, List.cons_append, List.nil_append]

/-- The count byte of a frame (R135). -/
theorem drain_takeCount (s : State) (op : Instr) (rest : List Micro) (loc : Locals) (c : Byte)
    (more : List Byte) (hr : s.rx = c :: more) :
    drain (s.runningAt op (.takeCount :: rest) loc) =
      if 38 < c.toNat then ({ s with rx := more } : State).raiseError .len (zext c) loc
      else drain (({ s with rx := more } : State).runningAt op (readRecords s.ctrl.rxChk c ++ rest) loc) := by
  have hs : (s.runningAt op (.takeCount :: rest) loc).rx = c :: more := hr
  split
  · rename_i h
    rw [drain_stops s op rest loc .takeCount _ (by
      simp only [stepMicro, State.takeByte, hs, countStep, Config.cmdMax]
      exact if_pos h), ← raiseError_runningAt { s with rx := more } op loc _ _ (.takeCount :: rest) loc]
    rfl
  · rename_i h
    refine drain_go s op rest loc .takeCount { s with rx := more } loc _ ?_
    simp only [stepMicro, State.takeByte, hs, countStep, Config.cmdMax]
    exact if_neg h

/-- The trailer byte of a frame: it matches, discards the batch, or is reported (R135). -/
theorem drain_takeTrailer (s : State) (op : Instr) (rest : List Micro) (loc : Locals) (c t : Byte)
    (more : List Byte) (hr : s.rx = t :: more) :
    drain (s.runningAt op (.takeTrailer c :: rest) loc) =
      (let u : State := { s with rx := more }
       if t = s.trailerOf cmdBatchBase c.toNat then drain (u.runningAt op rest { loc with trailer := t })
       else if s.ctrl.rxChk = .discard then u.raiseError .checksum (zext t) loc
       else drain ((u.record .checksum (zext t)).runningAt op rest { loc with trailer := t })) := by
  have hs : (s.runningAt op (.takeTrailer c :: rest) loc).rx = t :: more := hr
  have ht : ∀ x : State, x.mem = s.mem → x.params = s.params → x.ctrl = s.ctrl →
      x.trailerOf cmdBatchBase c.toNat = s.trailerOf cmdBatchBase c.toNat := by
    intro x h1 h2 h3
    have hb : x.readByte = s.readByte := funext fun a => readByte_congr s x h1 h2 a
    simp only [State.trailerOf, State.checksum, State.batchBody, State.recordBytes,
      State.checksumSeed, State.startLen, h3, hb]
  dsimp only
  split
  · rename_i h
    refine drain_next s op rest loc _ { s with rx := more } _ ?_
    simp only [stepMicro, State.takeByte, hs, trailerStep]
    rw [if_pos]
    · rfl
    · rw [h]; exact (ht _ rfl rfl rfl).symm
  · rename_i h
    have h' : t ≠ ({ s.runningAt op (.takeTrailer c :: rest) loc with rx := more } : State).trailerOf
        cmdBatchBase c.toNat := fun e => h (e.trans (ht _ rfl rfl rfl))
    have hm : stepMicro (.takeTrailer c) loc (s.runningAt op (.takeTrailer c :: rest) loc) =
        trailerStep c loc t { s.runningAt op (.takeTrailer c :: rest) loc with rx := more } := by
      simp only [stepMicro, State.takeByte, hs]
    split
    · rename_i hd
      rw [drain_stops s op rest loc (.takeTrailer c) _ (by
        rw [hm]; unfold trailerStep; rw [if_neg h']; exact if_pos hd),
        ← raiseError_runningAt { s with rx := more } op loc _ _ (.takeTrailer c :: rest) loc]
      rfl
    · rename_i hd
      refine drain_next s op rest loc _ (({ s with rx := more } : State).record .checksum (zext t)) _ ?_
      rw [hm]; unfold trailerStep; rw [if_neg h']; exact if_neg hd

end Sys2Proof.Machine
end

