-- ==== Sys2Proof/Laws/PerInstr.lean ====
section
/-! SUPPORT. The family `Encoding`, one lemma per constructor: the encoded word of a well-formed
operation carries its row's opcode and no bit that the row does not use (30_encoding.md R60 to R62). -/

namespace Sys2Proof.Laws

/-- Three fields masked at once are the three masked fields. -/
theorem fields_masked {i j k : Nat} (x m : BitVec i) (y n : BitVec j) (z o : BitVec k) :
    (x ++ y ++ z) &&& ~~~(m ++ n ++ o) = (x &&& ~~~m) ++ (y &&& ~~~n) ++ (z &&& ~~~o) := by
  rw [BitVec.not_append, BitVec.not_append, BitVec.and_append, BitVec.and_append]

/-- The word of a row masked by the bits the row does not use, field by field. -/
theorem opWord_masked (op a ma : Byte) (b mb : Half) :
    opWord op a b &&& ~~~(opWord 0xFF ma mb) = opWord 0 (a &&& ~~~ma) (b &&& ~~~mb) := by
  have h : op &&& ~~~(0xFF : Byte) = 0 := by simp
  rw [← h]
  exact fields_masked op 0xFF a ma b mb

/-- `OP` of a word put together from its fields. -/
theorem fieldOp_opWord (op a : Byte) (b : Half) : fieldOp (opWord op a b) = op := by
  apply BitVec.eq_of_toNat_eq
  simp only [fieldOp, opWord, BitVec.extractLsb'_toNat, BitVec.toNat_append]
  have := op.isLt
  have := a.isLt
  have := b.isLt
  rw [← Nat.shiftLeft_add_eq_or_of_lt b.isLt, ← Nat.shiftLeft_add_eq_or_of_lt a.isLt]
  simp only [Nat.shiftLeft_eq, Nat.shiftRight_eq_div_pow]
  omega

/-- A byte in `B[7:0]` leaves `B[15:8]` zero. -/
theorem byte_in_low (q : Byte) : q.setWidth 16 &&& ~~~(0x00FF : Half) = 0 := by
  ext k hk
  simp only [BitVec.getElem_and, BitVec.getElem_not, BitVec.getElem_setWidth]
  by_cases h : k < 8
  · interval_cases k <;> simp
  · simp [BitVec.getLsbD_of_ge q k (by omega)]

/-- A count in `B[3:0]` leaves `B[15:4]` zero. -/
theorem count_in_low (n : Nat) (h : n < 16) : BitVec.ofNat 16 n &&& ~~~(0x000F : Half) = 0 := by
  interval_cases n <;> rfl

namespace Encoding

/-- `OP` of a constructor's row (R62). -/
def opcode : Instr → Byte
  | .nop => 0x00
  | .srst => 0x01
  | .u16fb _ _ => 0x10
  | .bfu16 _ => 0x11
  | .u10to16 _ => 0x12
  | .u16to10 _ => 0x13
  | .u10to12 _ => 0x14
  | .u12to10 _ => 0x15
  | .u12to16 _ => 0x16
  | .u16to12 _ => 0x17
  | .clamp12 _ => 0x18
  | .adc2v _ => 0x19
  | .dacwr _ => 0x1A
  | .muxsel _ => 0x20
  | .adcsample _ => 0x21
  | .lkmus _ => 0x28
  | .lkslv _ => 0x29
  | .beginBracket _ => 0x30
  | .endBracket => 0x31
  | .xfer8 _ => 0x32
  | .xfer16 _ => 0x33
  | .xfern _ => 0x34
  | .swr8 _ _ => 0x38
  | .srd8 _ => 0x39
  | .srw8 _ _ => 0x3A
  | .swr16 _ _ => 0x3B
  | .srd16 _ => 0x3C
  | .srw16 _ _ => 0x3D
  | .swrn _ _ => 0x3E
  | .srdn _ _ => 0x3F
  | .srwn _ _ => 0x40
  | .txn _ _ => 0x48
  | .swap => 0x50
  | .mirror => 0x51
  | .sync => 0x60
  | .rdbatch => 0x61
  | .wrbatch => 0x62
  | .cksumtx => 0x63
  | .clrbatch _ => 0x64
  | .putrec _ _ => 0x65

/-- The word carries the row's opcode, and no bit outside those the row uses. -/
def Statement (i : Instr) : Prop :=
  i.wellFormed = true → fieldOp (encode i) = opcode i ∧ encode i &&& ~~~(usedBits i) = 0

/-- From the two halves of the word. -/
theorem of_fields (i : Instr) (a ma : Byte) (b mb : Half) (he : encode i = opWord (opcode i) a b)
    (hu : usedBits i = opWord 0xFF ma mb) (ha : a &&& ~~~ma = 0) (hb : b &&& ~~~mb = 0) :
    fieldOp (encode i) = opcode i ∧ encode i &&& ~~~(usedBits i) = 0 := by
  rw [he, hu, fieldOp_opWord, opWord_masked, ha, hb]
  exact ⟨rfl, rfl⟩

/-- Every bit of a byte is a used bit. -/
theorem full8 (a : Byte) : a &&& ~~~(0xFF : Byte) = 0 := by simp

/-- Every bit of a 16-bit value is a used bit. -/
theorem full16 (b : Half) : b &&& ~~~(0xFFFF : Half) = 0 := by simp

theorem nop : Statement (.nop) :=
  fun _ => of_fields _ 0 0 0 0 rfl rfl rfl rfl

theorem srst : Statement (.srst) :=
  fun _ => of_fields _ 0 0 0 0 rfl rfl rfl rfl

theorem u16fb (low : Byte) (high : Byte) : Statement (.u16fb low high) :=
  fun _ => of_fields _ low 0xFF (high.setWidth 16) 0x00FF rfl rfl (full8 _) (byte_in_low _)

theorem bfu16 (v : Half) : Statement (.bfu16 v) :=
  fun _ => of_fields _ 0 0 v 0xFFFF rfl rfl rfl (full16 _)

theorem u10to16 (x : Half) : Statement (.u10to16 x) :=
  fun _ => of_fields _ 0 0 x 0xFFFF rfl rfl rfl (full16 _)

theorem u16to10 (x : Half) : Statement (.u16to10 x) :=
  fun _ => of_fields _ 0 0 x 0xFFFF rfl rfl rfl (full16 _)

theorem u10to12 (x : Half) : Statement (.u10to12 x) :=
  fun _ => of_fields _ 0 0 x 0xFFFF rfl rfl rfl (full16 _)

theorem u12to10 (x : Half) : Statement (.u12to10 x) :=
  fun _ => of_fields _ 0 0 x 0xFFFF rfl rfl rfl (full16 _)

theorem u12to16 (x : Half) : Statement (.u12to16 x) :=
  fun _ => of_fields _ 0 0 x 0xFFFF rfl rfl rfl (full16 _)

theorem u16to12 (x : Half) : Statement (.u16to12 x) :=
  fun _ => of_fields _ 0 0 x 0xFFFF rfl rfl rfl (full16 _)

theorem clamp12 (v : Half) : Statement (.clamp12 v) :=
  fun _ => of_fields _ 0 0 v 0xFFFF rfl rfl rfl (full16 _)

theorem adc2v (x : Half) : Statement (.adc2v x) :=
  fun _ => of_fields _ 0 0 x 0xFFFF rfl rfl rfl (full16 _)

theorem dacwr (v : Half) : Statement (.dacwr v) :=
  fun _ => of_fields _ 0 0 v 0xFFFF rfl rfl rfl (full16 _)

theorem muxsel (channel : Nat) : Statement (.muxsel channel) :=
  fun _ => of_fields _ (BitVec.ofNat 8 channel) 0xFF 0 0 rfl rfl (full8 _) rfl

theorem adcsample (channel : Nat) : Statement (.adcsample channel) :=
  fun _ => of_fields _ (BitVec.ofNat 8 channel) 0xFF 0 0 rfl rfl (full8 _) rfl

theorem lkmus (id : Byte) : Statement (.lkmus id) :=
  fun _ => of_fields _ id 0xFF 0 0 rfl rfl (full8 _) rfl

theorem lkslv (id : Byte) : Statement (.lkslv id) :=
  fun _ => of_fields _ id 0xFF 0 0 rfl rfl (full8 _) rfl

theorem beginBracket (index : Nat) : Statement (.beginBracket index) :=
  fun _ => of_fields _ (BitVec.ofNat 8 index) 0xFF 0 0 rfl rfl (full8 _) rfl

theorem endBracket : Statement (.endBracket) :=
  fun _ => of_fields _ 0 0 0 0 rfl rfl rfl rfl

theorem xfer8 (out : Byte) : Statement (.xfer8 out) :=
  fun _ => of_fields _ out 0xFF 0 0 rfl rfl (full8 _) rfl

theorem xfer16 (out : Half) : Statement (.xfer16 out) :=
  fun _ => of_fields _ 0 0 out 0xFFFF rfl rfl rfl (full16 _)

theorem xfern (n : Nat) : Statement (.xfern n) :=
  fun h => of_fields _ 0 0 (BitVec.ofNat 16 n) 0x000F rfl rfl rfl (count_in_low _ (of_decide_eq_true h))

theorem swr8 (slave : Byte) (out : Byte) : Statement (.swr8 slave out) :=
  fun _ => of_fields _ slave 0xFF (out.setWidth 16) 0x00FF rfl rfl (full8 _) (byte_in_low _)

theorem srd8 (slave : Byte) : Statement (.srd8 slave) :=
  fun _ => of_fields _ slave 0xFF 0 0 rfl rfl (full8 _) rfl

theorem srw8 (slave : Byte) (out : Byte) : Statement (.srw8 slave out) :=
  fun _ => of_fields _ slave 0xFF (out.setWidth 16) 0x00FF rfl rfl (full8 _) (byte_in_low _)

theorem swr16 (slave : Byte) (out : Half) : Statement (.swr16 slave out) :=
  fun _ => of_fields _ slave 0xFF out 0xFFFF rfl rfl (full8 _) (full16 _)

theorem srd16 (slave : Byte) : Statement (.srd16 slave) :=
  fun _ => of_fields _ slave 0xFF 0 0 rfl rfl (full8 _) rfl

theorem srw16 (slave : Byte) (out : Half) : Statement (.srw16 slave out) :=
  fun _ => of_fields _ slave 0xFF out 0xFFFF rfl rfl (full8 _) (full16 _)

theorem swrn (slave : Byte) (n : Nat) : Statement (.swrn slave n) :=
  fun h => of_fields _ slave 0xFF (BitVec.ofNat 16 n) 0x000F rfl rfl (full8 _)
    (count_in_low _ (of_decide_eq_true h))

theorem srdn (slave : Byte) (n : Nat) : Statement (.srdn slave n) :=
  fun h => of_fields _ slave 0xFF (BitVec.ofNat 16 n) 0x000F rfl rfl (full8 _)
    (count_in_low _ (of_decide_eq_true h))

theorem srwn (slave : Byte) (n : Nat) : Statement (.srwn slave n) :=
  fun h => of_fields _ slave 0xFF (BitVec.ofNat 16 n) 0x000F rfl rfl (full8 _)
    (count_in_low _ (of_decide_eq_true h))

theorem txn (slave : Byte) (v : Half) : Statement (.txn slave v) :=
  fun _ => of_fields _ slave 0xFF v 0xFFFF rfl rfl (full8 _) (full16 _)

theorem swap : Statement (.swap) :=
  fun _ => of_fields _ 0 0 0 0 rfl rfl rfl rfl

theorem mirror : Statement (.mirror) :=
  fun _ => of_fields _ 0 0 0 0 rfl rfl rfl rfl

theorem sync : Statement (.sync) :=
  fun _ => of_fields _ 0 0 0 0 rfl rfl rfl rfl

theorem rdbatch : Statement (.rdbatch) :=
  fun _ => of_fields _ 0 0 0 0 rfl rfl rfl rfl

theorem wrbatch : Statement (.wrbatch) :=
  fun _ => of_fields _ 0 0 0 0 rfl rfl rfl rfl

theorem cksumtx : Statement (.cksumtx) :=
  fun _ => of_fields _ 0 0 0 0 rfl rfl rfl rfl

theorem clrbatch (selector : Nat) : Statement (.clrbatch selector) :=
  fun _ => of_fields _ (BitVec.ofNat 8 selector) 0xFF 0 0 rfl rfl (full8 _) rfl

theorem putrec (id : Byte) (v : Half) : Statement (.putrec id v) :=
  fun _ => of_fields _ id 0xFF v 0xFFFF rfl rfl (full8 _) (full16 _)

end Encoding

end Sys2Proof.Laws
end

