-- ==== Sys2Proof/Tests/Slice0.lean ====
section
/-! SUPPORT. Tests: the decoding of a word of every row, the well-formedness checks, one step of each
operation on the vectors of 95_test_vectors.md (named in each docstring) or on values worked out by
hand from the rule named, and for each statement with hypotheses a witness that meets them. -/

namespace Sys2Proof.Tests

open Sys2Proof.Machine Sys2Proof.Safety

/-! ## Decoding: words written out from 30_encoding.md R60 to R62 as `OP`, `A`, `B` -/

/-- unused operand bits set. -/
theorem test_decode_nop :
    decode 0b00000000_10101011_00010010_00110100 = .ok (.nop) := by decide

theorem test_decode_srst :
    decode 0b00000001_00000000_00000000_00000000 = .ok (.srst) := by decide

/-- V-CODEC-1: `B[15:8]` ignored. -/
theorem test_decode_u16fb :
    decode 0b00010000_00110100_10101011_00010010 = .ok (.u16fb 0x34 0x12) := by decide

/-- V-CODEC-1. -/
theorem test_decode_bfu16 :
    decode 0b00010001_00000000_10111110_11101111 = .ok (.bfu16 0xBEEF) := by decide

/-- P1. -/
theorem test_decode_u10to16 :
    decode 0b00010010_00000000_00000010_00000000 = .ok (.u10to16 512) := by decide

/-- P1. -/
theorem test_decode_u16to10 :
    decode 0b00010011_00000000_10000000_00100000 = .ok (.u16to10 32800) := by decide

theorem test_decode_u10to12 :
    decode 0b00010100_00000000_00000011_11101000 = .ok (.u10to12 1000) := by decide

theorem test_decode_u12to10 :
    decode 0b00010101_00000000_00001000_00000000 = .ok (.u12to10 2048) := by decide

theorem test_decode_u12to16 :
    decode 0b00010110_00000000_00001001_00010000 = .ok (.u12to16 2320) := by decide

theorem test_decode_u16to12 :
    decode 0b00010111_00000000_10001000_10010000 = .ok (.u16to12 34960) := by decide

/-- V-CODEC-10. -/
theorem test_decode_clamp12 :
    decode 0b00011000_00000000_00010011_10001000 = .ok (.clamp12 5000) := by decide

theorem test_decode_adc2v :
    decode 0b00011001_00000000_00000010_00000000 = .ok (.adc2v 512) := by decide

/-- V-CODEC-11. -/
theorem test_decode_dacwr :
    decode 0b00011010_00000000_00011111_11111111 = .ok (.dacwr 0x1FFF) := by decide

/-- V-MUX-1. -/
theorem test_decode_muxsel :
    decode 0b00100000_00101101_00000000_00000000 = .ok (.muxsel 45) := by decide

/-- V-MUX-5. -/
theorem test_decode_adcsample :
    decode 0b00100001_00000011_00000000_00000000 = .ok (.adcsample 3) := by decide

/-- V-REG-2. -/
theorem test_decode_lkmus :
    decode 0b00101000_00101000_00000000_00000000 = .ok (.lkmus 40) := by decide

theorem test_decode_lkslv :
    decode 0b00101001_00011000_00000000_00000000 = .ok (.lkslv 24) := by decide

/-- V-SPI-1. -/
theorem test_decode_beginBracket :
    decode 0b00110000_00000010_00000000_00000000 = .ok (.beginBracket 2) := by decide

/-- V-SPI-1. -/
theorem test_decode_endBracket :
    decode 0b00110001_00000000_00000000_00000000 = .ok (.endBracket) := by decide

theorem test_decode_xfer8 :
    decode 0b00110010_00010010_00000000_00000000 = .ok (.xfer8 0x12) := by decide

theorem test_decode_xfer16 :
    decode 0b00110011_00000000_00010010_00110100 = .ok (.xfer16 0x1234) := by decide

/-- V-SPI-7: `B[3:0]` only. -/
theorem test_decode_xfern :
    decode 0b00110100_00000000_00000000_00010100 = .ok (.xfern 4) := by decide

/-- V-SPI-14. -/
theorem test_decode_swr8 :
    decode 0b00111000_00000011_00000000_01010101 = .ok (.swr8 3 0x55) := by decide

theorem test_decode_srd8 :
    decode 0b00111001_01100011_00000000_00000000 = .ok (.srd8 99) := by decide

/-- `B[15:8]` ignored. -/
theorem test_decode_srw8 :
    decode 0b00111010_00000001_11111111_10000000 = .ok (.srw8 1 0x80) := by decide

theorem test_decode_swr16 :
    decode 0b00111011_00000010_10000000_11111110 = .ok (.swr16 2 0x80FE) := by decide

theorem test_decode_srd16 :
    decode 0b00111100_11111111_00000000_00000000 = .ok (.srd16 255) := by decide

theorem test_decode_srw16 :
    decode 0b00111101_00010000_00000010_00000001 = .ok (.srw16 16 0x0201) := by decide

/-- `B[15:4]` ignored. -/
theorem test_decode_swrn :
    decode 0b00111110_01100011_11111111_11110100 = .ok (.swrn 99 4) := by decide

theorem test_decode_srdn :
    decode 0b00111111_00000001_00000000_00001000 = .ok (.srdn 1 8) := by decide

theorem test_decode_srwn :
    decode 0b01000000_00000001_00000000_00000100 = .ok (.srwn 1 4) := by decide

/-- V-SPI-10. -/
theorem test_decode_txn :
    decode 0b01001000_00000001_00000010_00000000 = .ok (.txn 1 0x0200) := by decide

/-- V-FAN-1. -/
theorem test_decode_swap :
    decode 0b01010000_00000000_00000000_00000000 = .ok (.swap) := by decide

/-- V-FAN-7. -/
theorem test_decode_mirror :
    decode 0b01010001_00000000_00000000_00000000 = .ok (.mirror) := by decide

/-- V-FRM-11. -/
theorem test_decode_sync :
    decode 0b01100000_00000000_00000000_00000000 = .ok (.sync) := by decide

/-- V-FRM-1. -/
theorem test_decode_rdbatch :
    decode 0b01100001_00000000_00000000_00000000 = .ok (.rdbatch) := by decide

/-- V-FRM-12. -/
theorem test_decode_wrbatch :
    decode 0b01100010_00000000_00000000_00000000 = .ok (.wrbatch) := by decide

/-- V-FRM-15. -/
theorem test_decode_cksumtx :
    decode 0b01100011_00000000_00000000_00000000 = .ok (.cksumtx) := by decide

theorem test_decode_clrbatch :
    decode 0b01100100_00000001_00000000_00000000 = .ok (.clrbatch 1) := by decide

/-- V-FRM-15. -/
theorem test_decode_putrec :
    decode 0b01100101_00000111_00000000_00010100 = .ok (.putrec 7 20) := by decide

/-- V-ERR-2: opcodes outside the table. -/
theorem test_decode_illegal : decode 0x02000000 = .error (.illegal 2) ∧
    decode 0x66000000 = .error (.illegal 0x66) ∧ decode 0xFF000000 = .error (.illegal 0xFF) := by decide

/-- Fewer than four bytes are no operation word. -/
theorem test_decode_short : decodeBytes [0x00, 0x02, 0x2D] = .error .notAWord := by decide

/-- 20_memory.md R43: the byte of `OP` is the last of the four. -/
theorem test_decode_bytes : decodeBytes [0x00, 0x02, 0x01, 0x48, 0x77] = .ok (.txn 1 0x0200, [0x77]) := by
  decide

theorem test_decode_table_word : decodeTableWord 32 0x48010200 = some (.txn 1 0x0200) ∧
    decodeTableWord 32 0x02000000 = none := by decide

/-! ## Well-formedness: an operand too wide for its field is refused -/

theorem test_ill_formed_muxsel : Instr.wellFormed (.muxsel 256) = false := by decide

theorem test_ill_formed_adcsample : Instr.wellFormed (.adcsample 256) = false := by decide

theorem test_ill_formed_beginBracket : Instr.wellFormed (.beginBracket 256) = false := by decide

theorem test_ill_formed_clrbatch : Instr.wellFormed (.clrbatch 256) = false := by decide

theorem test_ill_formed_xfern : Instr.wellFormed (.xfern 16) = false := by decide

theorem test_ill_formed_swrn : Instr.wellFormed (.swrn 1 16) = false := by decide

theorem test_ill_formed_srdn : Instr.wellFormed (.srdn 1 16) = false := by decide

theorem test_ill_formed_srwn : Instr.wellFormed (.srwn 1 16) = false := by decide

theorem test_well_formed_limits : Instr.wellFormed (.muxsel 255) = true ∧
    Instr.wellFormed (.srwn 255 15) = true := by decide

/-! ## States for the tests -/

/-- 24 slaves, `V_REF` 5.0, slaves that keep up. -/
def params : Params where
  nSlaves := 24
  muscleBase := 39
  vRefNum := 5
  vRefDen := 1
  lenTiming := .current
  initLen := .four
  trailingWrite := false
  tSettle := 1
  tIb := 1
  tSlaveIsr := 1
  spiMode := { polarity := false, phase := true }
  spiBitOrder := .lsbFirst
  spiClock := 0
  uartBaud := 0
  uartFormat := 0

/-- A peer at rest with 0xD0 in its transmit register. -/
def peer : Peer where
  attached := true
  spiIndex := 0
  maxSpiIndex := .four
  pendingLen := .four
  commandId := 0
  sensorId := 0
  staged := []
  rxLo := 0
  txReg := 0xD0
  desired := 0
  readyAt := 0

/-- The machine after reset with these parameters, every slave attached. -/
def quiet : State := { State.reset with params := params, peers := List.replicate 24 peer }

/-- `quiet` with the next draws settled. -/
def drawing (l : List Word) : State := { quiet with draws := { settled := l, count := 0 } }

/-- A bracket open on slave index 2. -/
def opened : State :=
  { quiet with muxL := 7, muxU := 4, cs := .low, bracket := .opened 2, bus := [.asserted 39] }

/-- `SYNC` running, its search waiting for a host byte. -/
def waiting : State :=
  { quiet with seq := .running { op := .sync, todo := [.searchByte, .resultSearch], loc := {} } }

/-- Slaves that have handled a byte within the settle time but not within `T_IB`. -/
def slow (l : List Word) : State := { drawing l with params := { params with tSettle := 2, tSlaveIsr := 2 } }

/-- The state after the operation line of one word. -/
def after (s : State) (w : Word) : State :=
  match step { s with moves := [.issue w] } with
  | .next t => t
  | _ => s

/-- `RESULT`. -/
def result (s : State) : Word := s.registerWord 0x010

/-- `s` with these bytes stored from an offset on. -/
def poked (off : Nat) : List Byte → State → State
  | [], s => s
  | b :: rest, s => poked (off + 1) rest (s.writeByte off b)

/-- `RDBATCH` just accepted by a bare `CMD` write, over an old count of 5. -/
def reading : State := perform (.write 0x00C 4 0x61000000) (poked 0x300 [5] quiet)

/-- `SENSBATCH = [2: (5, 10), (7, 20)]`. -/
def batch : State := poked 0x400 [2, 5, 10, 0, 7, 20, 0] quiet

/-- `CMDBATCH = [2: (39, 0x0100), (99, 5)]`, `PAD_COUNT = 0` (V-FAN-1). -/
def orders (s : State) : State :=
  poked 0x300 [2, 39, 0, 1, 99, 5, 0] { s with ctrl := { s.ctrl with padCount := 0 } }

/-- The frame of S7, checked with `RXCHK = DISCARD`. -/
def framed (rx : List Byte) : State :=
  { quiet with rx := rx, ctrl := { quiet.ctrl with rxChk := .discard } }

def frame : List Byte := [0xFF, 0xFF, 2, 5, 10, 0, 7, 20, 0, 0x2C]

/-! ## One step of each operation -/

/-- V-CTL-1. -/
theorem test_nop_sets_done : after quiet 0x00000000 = { quiet with done := true } := by decide

/-- V-CTL-1: inside a bracket the bracket stays open. -/
theorem test_nop_keeps_bracket : (after opened 0x00000000).bracket = .opened 2 := by decide

/-- V-CTL-2: the pins but the chip-select stay. -/
theorem test_srst_closes : (after opened 0x01000000).cs = .released ∧
    (after opened 0x01000000).bracket = .closed ∧ (after opened 0x01000000).muxCh = 39 := by
  decide

/-- V-CTL-3: a waiting operation is abandoned. -/
theorem test_srst_abandons : (after waiting 0x01000000).seq = .idle ∧
    (after waiting 0x01000000).done = true ∧ (after waiting 0x01000000).errKind = 0 := by decide

/-- R141: `SRST` before the first step of `RDBATCH` leaves no count. -/
theorem test_srst_before_first_step : reading.busy = true ∧
    (after reading 0x01000000).readByte 0x300 = 0 ∧ (after reading 0x01000000).busy = false := by decide

/-- V-CODEC-1. -/
theorem test_u16fb : result (after quiet 0x10340012) = 0x00001234 := by decide

/-- V-CODEC-1. -/
theorem test_bfu16 : result (after quiet 0x1100BEEF) = 0x00BE00EF := by decide

/-- V-CODEC-2, S2. -/
theorem test_u10to16 : result (after quiet 0x12000334) = 52530 ∧
    result (after quiet 0x120003FF) = 65535 := by decide

/-- V-CODEC-2: above the full scale, saturated and flagged. -/
theorem test_u10to16_range : result (after quiet 0x12000400) = 65535 ∧
    (after quiet 0x12000400).errWord = 0x05000020 ∧ (after quiet 0x12000400).errInfo = 1024 := by
  decide

/-- V-CODEC-3: 32 gives 0, 33 gives 1. -/
theorem test_u16to10 : result (after quiet 0x13000020) = 0 ∧ result (after quiet 0x13000021) = 1 := by
  decide

/-- V-CODEC-5. -/
theorem test_u10to12 : result (after quiet 0x140003E8) = 4003 := by decide

/-- V-CODEC-6: 4096 gives 1023 with a flag. -/
theorem test_u12to10 : result (after quiet 0x15000FFE) = 1023 ∧ result (after quiet 0x15001000) = 1023 ∧
    (after quiet 0x15001000).errWord = 0x05000020 := by decide

/-- V-CODEC-7. -/
theorem test_u12to16 : result (after quiet 0x16000910) = 37128 := by decide

/-- V-CODEC-8. -/
theorem test_u16to12 : result (after quiet 0x17008890) = 2184 := by decide

/-- V-CODEC-10. -/
theorem test_clamp12 : result (after quiet 0x18001388) = 4095 ∧
    (after quiet 0x18001388).errInfo = 0x1388 := by decide

/-- V-CODEC-12, `V_REF` 5.0. -/
theorem test_adc2v : result (after quiet 0x19000001) = 0x3BA0280A ∧
    result (after quiet 0x190002BC) = 0x405AF6BE := by decide

/-- V-CODEC-12, `V_REF` 4.3. -/
theorem test_adc2v_other : voltageWord { params with vRefNum := 43, vRefDen := 10 } 700 = 0x403C4F14 := by
  decide

/-- V-CODEC-11. -/
theorem test_dacwr : (after quiet 0x1A000802).dac = 2050 ∧ (after quiet 0x1A001FFF).dac = 4095 := by
  decide

/-- V-MUX-1, V-MUX-3. -/
theorem test_muxsel : (after quiet 0x202D0000).statusWord = 0x00FF2D02 ∧
    (after quiet 0x20400000).errWord = 0x08000100 := by decide

/-- V-MUX-5. -/
theorem test_adcsample : result (after (drawing [700]) 0x21030000) = 700 ∧
    (after (drawing [700]) 0x21030000).muxCh = 3 := by decide

/-- V-REG-2. -/
theorem test_lkmus : result (after quiet 0x28280000) = 1 ∧ result (after quiet 0x283F0000) = 255 := by
  decide

/-- V-REG-2. -/
theorem test_lkslv : result (after quiet 0x29180000) = 23 ∧ result (after quiet 0x29000000) = 255 := by
  decide

/-- V-SPI-1. -/
theorem test_begin : (after quiet 0x30020000).statusWord = 0x0002A706 := by decide

/-- V-SPI-2, V-SPI-3. -/
theorem test_begin_refused : (after quiet 0x30180000).errInfo = 24 ∧
    (after opened 0x30010000).errKind = 0x020 := by decide

/-- V-SPI-1, V-SPI-4. -/
theorem test_end : (after opened 0x31000000).cs = .released ∧ (after opened 0x31000000).muxCh = 39 ∧
    (after quiet 0x31000000).errWord = 0x07000080 := by decide

/-- V-SPI-6: the first reply is the transmit register. -/
theorem test_xfer8 : result (after opened 0x32010000) = 0xD0 := by decide

/-- V-SPI-5. -/
theorem test_xfer8_unbalanced : (after quiet 0x32120000).errInfo = 0x12 := by decide

/-- V-SPI-6: low byte first, then what position 0 of the slave loaded (R127). -/
theorem test_xfer16 : result (after { opened with draws := { settled := [0x77], count := 0 } } 0x33000101)
    = 0x77D0 := by decide

/-- V-SPI-7: a length of 0 is refused and the bracket stays open. -/
theorem test_xfern_length : (after opened 0x34000000).errKind = 0x080 ∧
    (after opened 0x34000000).bracket = .opened 2 := by decide

/-- R108: the replies go to the open bracket's row. -/
theorem test_xfern : (after opened 0x34000001).readByte 0x210 = 0xD0 ∧
    result (after opened 0x34000001) = 1 := by decide

/-- V-SPI-14. -/
theorem test_swr8 : (after quiet 0x38030055).bus = [.asserted 39, .byte 0x55 0xD0, .released] ∧
    result (after { quiet with params := { params with nSlaves := 2 } } 0x38FF0055) = 2 := by decide

/-- V-SPI-8. -/
theorem test_srd8 : (after quiet 0x39630000).errWord = 0x03000008 ∧
    (after quiet 0x39010000).readByte 0x200 = 0xD0 := by decide

/-- R112. -/
theorem test_srw8 : result (after quiet 0x3A020080) = 0xD0 ∧
    (after quiet 0x3A020080).bus = [.asserted 38, .byte 0x80 0xD0, .released] := by decide

/-- R113: low byte first; the replies are dropped. -/
theorem test_swr16 : (after (drawing [0x11]) 0x3B0280FE).bus =
      [.asserted 38, .byte 0xFE 0xD0, .byte 0x80 0x11, .released] ∧
    (after (drawing [0x11]) 0x3B0280FE).mem = [] := by decide

/-- V-SPI-15. -/
theorem test_srd16 : result (after (drawing [0xBB]) 0x3C010000) = 0xBBD0 := by decide

/-- R115. -/
theorem test_srw16 : (after (drawing [0xBB]) 0x3D010201).readHalf 0x200 = 0xBBD0 := by decide

/-- V-SPI-9: the length is checked before the target. -/
theorem test_swrn : (after quiet 0x3E630000).errWord = 0x08000100 ∧
    (after quiet 0x3E630004).errWord = 0x03000008 := by decide

/-- V-ERR-5: the bracket is checked first. -/
theorem test_srdn : (after opened 0x3F630000).errWord = 0x06000040 ∧
    (after quiet 0x3F630000).errWord = 0x08000100 := by decide

/-- V-SPI-16. -/
theorem test_srwn :
    (after (poked 0x100 [1, 1, 0x10, 0] (drawing [0xD1, 0x0300])) 0x40010004).readWord 0x200 = 0x0300D1D0 ∧
    result (after (poked 0x100 [1, 1, 0x10, 0] (drawing [0xD1, 0x0300])) 0x40010004) = 0x00040001 := by
  decide

/-- V-SPI-10. -/
theorem test_txn : result (after (drawing [0xD1, 0x0155]) 0x48010200) = 0x0155 ∧
    (after (drawing [0xD1, 0x0155]) 0x48010200).readWord 0x600 = 0x00000155 ∧
    (after (drawing [0xD1, 0x0155]) 0x48010200).readWord 0x604 = 0x02000000 := by decide

/-- V-SPI-11: all three sensors. -/
theorem test_txn_all_sensors :
    result (after { drawing [0xD1, 0x0100, 0x0200, 0x0300] with commandId := 2, sensorId := 255 }
      0x48010000) = 0x02000100 := by decide

/-- V-FAN-1. -/
theorem test_swap : (after (orders (drawing [0xD1, 0x01F4])) 0x50000000).readWord 0x400 = 0x01F42701 ∧
    result (after (orders (drawing [0xD1, 0x01F4])) 0x50000000) = 0x00010001 ∧
    (after (orders (drawing [0xD1, 0x01F4])) 0x50000000).unkCnt = 1 := by decide

/-- V-FAN-4. -/
theorem test_swap_refused : (after { quiet with sensorId := 255 } 0x50000000).errInfo = 255 ∧
    (after (poked 0x300 [39] quiet) 0x50000000).errInfo = 39 := by decide

/-- V-FAN-7. -/
theorem test_mirror : (after (poked 0x400 [1, 5, 0, 2] quiet) 0x51000000).dac = 2050 ∧
    (after (poked 0x400 [1, 5, 0, 4] quiet) 0x51000000).errWord = 0x05000020 := by decide

/-- V-FAN-7: no such record. -/
theorem test_mirror_refused : (after quiet 0x51000000).errWord = 0x08000100 ∧
    (let s := { poked 0x400 [39] quiet with ctrl := { quiet.ctrl with mirrorSlot := 38 } }
     (after s 0x51000000).errWord = 0x08000100 ∧ (after s 0x51000000).errInfo = 38) := by decide

/-- V-FRM-11. -/
theorem test_sync : result (after (framed [0x12, 0xFF, 0x34, 0xFF, 0xFF, 2]) 0x60000000) = 5 ∧
    (after (framed [0x12, 0xFF, 0x34, 0xFF, 0xFF, 2]) 0x60000000).rx = [2] := by decide

/-- V-FRM-11: `SYNCLIM = 4`. -/
theorem test_sync_limit :
    (after { framed [0, 0, 0, 0xFF, 0xFF] with syncLim := 4 } 0x60000000).errInfo = 4 := by decide

/-- V-FRM-1, V-FRM-4: a stray 0xFF. -/
theorem test_rdbatch : (after (framed ([0xFF, 0x33] ++ frame)) 0x61000000).readWord 0x300 = 0x000A0502 ∧
    result (after (framed frame) 0x61000000) = 0x002C0002 := by decide

/-- V-FRM-5. -/
theorem test_rdbatch_false_match : (after (framed ([0x11, 0xFF] ++ frame)) 0x61000000).errWord = 0x0A000400 ∧
    (after (framed ([0x11, 0xFF] ++ frame)) 0x61000000).rx = [2, 5, 10, 0, 7, 20, 0, 0x2C] := by
  decide

/-- V-FRM-12. -/
theorem test_wrbatch : (after batch 0x62000000).tx = frame ∧ result (after batch 0x62000000) = 0x002C000A := by
  decide

/-- V-FRM-12: `START2 = 0, CK_SEED = 1`. -/
theorem test_wrbatch_short :
    (after { batch with ctrl := { batch.ctrl with start2 := false, ckSeed := true } } 0x62000000).tx =
      [0xFF, 2, 5, 10, 0, 7, 20, 0, 0x2B] := by decide

/-- V-FRM-15. -/
theorem test_cksumtx : result (after batch 0x63000000) = 0x2C ∧
    result (after { batch with ctrl := { batch.ctrl with ckSeed := true } } 0x63000000) = 0x2A := by
  decide

/-- V-FRM-15. -/
theorem test_clrbatch : (after batch 0x64000000).readByte 0x400 = 0 ∧
    (after batch 0x64010000).readByte 0x400 = 2 ∧ (after batch 0x64020000).errInfo = 2 := by decide

/-- V-FRM-15. -/
theorem test_putrec : (after quiet 0x65070014).readWord 0x400 = 0x00140701 ∧
    result (after quiet 0x65070014) = 1 ∧ (after (poked 0x400 [38] quiet) 0x65070014).errInfo = 7 := by
  decide

/-! ## The register port, the errors and the peers -/

/-- V-ERR-1. -/
theorem test_port_refused : (perform (.read 0x02C 4) quiet).errWord = 0x0C001000 ∧
    (perform (.read 0x002 4) quiet).errInfo = 2 ∧ (perform (.write 0x010 4 5) quiet).errInfo = 0x010 := by
  decide

/-- V-REG-1. -/
theorem test_registry_words : (perform (.read 0x508 4) quiet).readData = 0x00012903 ∧
    (perform (.read 0x55C 4) quiet).readData = 0x000B3E18 := by decide

/-- V-REG-4, V-REG-6. -/
theorem test_registry_refused : (perform (.write 0x508 4 0x000164FF) quiet).errInfo = 0x508 ∧
    (perform (.write 0x560 4 0x00002701) quiet).errKind = 0x800 := by decide

/-- V-REG-3. -/
theorem test_registry_write : result (after (perform (.write 0x508 4 0x00016403) quiet) 0x28640000) = 2 := by
  decide

/-- V-ERR-4. -/
theorem test_clear_errors :
    (perform (.write 0x008 4 0x20) { quiet with errKind := 0x210, lastCause := 10 }).errWord = 0x0A000400 ∧
    (perform (.write 0x008 4 0x400) { quiet with errKind := 0x200, lastCause := 10 }).errWord = 0 := by
  decide

/-- V-ERR-2, by a bare `CMD` write, and R148: `E_BUSY` is checked before `E_ILLEGAL`. -/
theorem test_cmd_write_illegal :
    (perform (.write 0x00C 4 0x02000000) quiet).errWord = 0x0B000800 ∧
    (perform (.write 0x00C 4 0x02000000) quiet).done = true ∧
    (perform (.write 0x00C 4 0x02000000) waiting).errWord = 0x09000200 ∧
    (perform (.write 0x00C 4 0x02000000) waiting).done = false := by decide

/-- V-CTL-3, by a bare `CMD` write. -/
theorem test_cmd_write_srst : (perform (.write 0x00C 4 0x01000000) waiting).busy = false ∧
    (perform (.write 0x00C 4 0x01000000) waiting).done = true := by decide

/-- V-ERR-7. -/
theorem test_timeout :
    (perform .timeout { waiting with ctrl := { waiting.ctrl with rxTmoEn := true } }).errWord = 0x02000004 ∧
    perform .timeout waiting = waiting := by decide

/-- V-ERR-3. -/
theorem test_busy : (after waiting 0x00000000).errInfo = 0x00C ∧
    (perform (.write 0x014 4 0x201) waiting).errInfo = 0x014 := by decide

/-- V-PEER-4: the length switch under `SLAVE_LEN_TIMING = PREVIOUS`. -/
theorem test_peer_previous :
    ((after { drawing [0xD1, 0x0100, 0x0200, 0x0300, 9, 0xD2, 9, 9, 9, 0xD2, 0xD3, 0xD4] with
        params := { params with lenTiming := .previous }, sensorId := 255 } 0x48010200).peers[0]?.map
      fun p => (p.spiIndex, p.maxSpiIndex)) = some (4, .eight) := by decide

/-- V-PEER-5: a partial transfer leaves the slave out of step. -/
theorem test_peer_partial : ((after quiet 0x38010055).peers[0]?.map fun p => (p.spiIndex, p.commandId)) =
    some (1, 0x55) := by decide

/-- R165: the second byte of a bracket comes early and is a draw; one-byte brackets do not come early. -/
theorem test_peer_early : result (after (slow [0x11, 0x22]) 0x3C010000) = 0x22D0 ∧
    result (after (after (slow [0x11]) 0x3A010000) 0x3A010000) = 0x11 := by decide

/-- R47: a window the running operation writes, and one it does not. -/
theorem test_read_while_busy :
    (perform (.read 0x300 4) { reading with draws := { settled := [7], count := 0 } }).readData = 7 ∧
    (perform (.read 0x500 4) reading).readData = 0x00002701 := by decide

/-- R59: the oldest byte goes first. -/
theorem test_host_take : (perform .hostTake { quiet with tx := [1, 2] }).tx = [2] := by decide

/-! ## Witnesses: states and operands that meet the hypotheses of the statements -/

/-- `quiet` about to issue an operation word. -/
def issuing (w : Word) : State := { quiet with moves := [.issue w] }

theorem witness_EncodeThenDecode : Instr.wellFormed (.srwn 255 15) = true := by decide

theorem witness_DecodeThenEncode : decode 0x3E63FFF4 = .ok (.swrn 99 4) := by decide

theorem witness_UnusedBitsAreIgnored : decode 0x3E63FFF4 = .ok (.swrn 99 4) ∧
    (0x3E63FFF4 : Word) &&& usedBits (.swrn 99 4) = 0x3E630004 &&& usedBits (.swrn 99 4) := by decide

theorem witness_IllegalOpcodes : (issuing 0x66000000).moves = .issue 0x66000000 :: [] ∧
    Idle (issuing 0x66000000) ∧ IllegalOp ((0x66000000 : Word).toNat / 2 ^ 24) := by
  refine ⟨rfl, rfl, ?_⟩
  unfold IllegalOp
  decide

/-- Every limit of R63's ranges, and the opcode beside it. -/
theorem witness_IllegalOpcodes_limits :
    (∀ op ∈ [0x02, 0x0F, 0x1B, 0x1F, 0x22, 0x27, 0x2A, 0x2F, 0x35, 0x37, 0x41, 0x47, 0x49, 0x4F, 0x52,
      0x5F, 0x66, 0xFF], IllegalOp op) ∧
    ∀ op ∈ [0x01, 0x10, 0x1A, 0x20, 0x21, 0x28, 0x29, 0x30, 0x34, 0x38, 0x40, 0x48, 0x50, 0x51, 0x60,
      0x65], ¬ IllegalOp op := by
  unfold IllegalOp
  decide

theorem witness_StepRunsTheDecodedOperation : (issuing 0x48010200).moves = .issue 0x48010200 :: [] ∧
    decode 0x48010200 = .ok (.txn 1 0x0200) := by decide

theorem witness_StepRunsTheDecodedOperation_moves :
    ({ quiet with moves := [.tick] }).moves = .tick :: [] ∧ (∀ w, Move.tick ≠ .issue w) ∧
      quiet.moves = [] := by
  refine ⟨rfl, ?_, rfl⟩
  simp

theorem witness_ExecIsIssueThenWait : quiet.busy = false ∧ Idle quiet ∧ Instr.rdbatch ≠ .srst ∧
    decode 0x61000000 = .ok .rdbatch ∧ IllegalOp ((0x66000000 : Word).toNat / 2 ^ 24) :=
  ⟨rfl, rfl, by decide, rfl, witness_IllegalOpcodes.2.2⟩

theorem witness_OperationsEnd : Idle quiet := rfl

/-- An operation and a word that is none. -/
theorem witness_BusyRefusesOperations : Instr.nop ≠ .srst ∧ waiting.busy = true ∧
    (0x66000000 : Word).toNat / 2 ^ 24 ≠ 1 ∧ (0x00000000 : Word).toNat / 2 ^ 24 ≠ 1 ∧
    (let s := { waiting with moves := [.issue 0x66000000] }
     s.busy = true ∧ s.moves = .issue 0x66000000 :: []) := by decide

/-- No entry of the reset registry holds 255. -/
theorem quiet_registry : ∀ i < 24, quiet.slaveIdOf i ≠ 255 ∧ quiet.muscleIdOf i ≠ 255 := by decide

theorem no_errors (s : State) (h1 : s.errKind = 0) (h2 : s.lastCause = 0) (h3 : s.errInfo = 0) :
    ErrorsOk s := ⟨fun _ => ⟨h2, h3⟩, fun h => absurd h1 h⟩

/-- In `quiet` and what comes of it every slave has handled its last byte. -/
theorem peers_handled (s : State) (t : Nat) (h : s.peers = quiet.peers) : HandledBy s t := by
  intro _ p hp
  rw [h] at hp
  rw [List.eq_of_mem_replicate hp]
  exact Nat.zero_le _

theorem witness_EveryStepKeepsTheInvariant : Inv quiet ∧ step quiet = .next quiet :=
  ⟨⟨rfl, rfl, rfl, no_errors _ rfl rfl rfl, quiet_registry, .inl ⟨rfl, rfl⟩, rfl, nofun,
    peers_handled _ _ rfl⟩, rfl⟩

/-- With a bracket open on slave index 2. -/
theorem witness_EveryStepKeepsTheInvariant_open : Inv opened ∧ step opened = .next opened :=
  ⟨⟨rfl, rfl, rfl, no_errors _ rfl rfl rfl, quiet_registry,
    .inr ⟨⟨2, rfl, by decide, rfl⟩, peers_handled _ _ rfl⟩, rfl, nofun, peers_handled _ _ rfl⟩, rfl⟩

/-- While an operation waits for the host. -/
theorem witness_EveryStepKeepsTheInvariant_running : Inv waiting ∧ step waiting = .next waiting :=
  ⟨⟨rfl, rfl, rfl, no_errors _ rfl rfl rfl, quiet_registry, ⟨.free, ⟨rfl, rfl⟩, rfl⟩, rfl, nofun,
    peers_handled _ _ rfl⟩, rfl⟩

theorem witness_SequencerFrame : Inv waiting ∧ (0x1FF < 0x200 ∨ (0x500 ≤ 0x1FF ∧ 0x1FF < 0x600)) :=
  ⟨witness_EveryStepKeepsTheInvariant_running.1, by decide⟩

theorem witness_NopSetsDoneOnly : Idle quiet := rfl

/-- While `RDBATCH` runs, and at any other time. -/
theorem witness_AbandonedReadBatch : ReadBatchCleared reading ∧
    (∃ r, reading.seq = .running r ∧ r.op = .rdbatch) ∧ ReadBatchCleared quiet ∧
    step quiet = .next quiet :=
  ⟨fun r h => by
      have hr : r = ⟨.rdbatch, [.startSearch, .searchByte, .takeCount], {}⟩ :=
        (Seq.running.inj h).symm
      subst hr
      exact fun _ => by decide,
    ⟨_, rfl, rfl⟩, nofun, rfl⟩

theorem witness_SoftReset : (quiet.bracket = .closed → quiet.cs = .released) ∧
    (opened.bracket = .closed → opened.cs = .released) := by decide

theorem witness_BytePairs : Idle quiet := rfl

theorem witness_RangeConversions : Idle quiet := rfl

theorem witness_ClampAndDac : Idle quiet := rfl

theorem witness_AdcToVoltage : Idle quiet ∧ quiet.params.wf = true ∧
    (5 : ℚ) = (min (0x3FF : Half).toNat 1023 : ℕ) *
      ((quiet.params.vRefNum : ℚ) / quiet.params.vRefDen) / 1023 ∧ (5 : ℚ) < 2 ^ 128 - 2 ^ 103 := by
  refine ⟨rfl, rfl, ?_, by norm_num⟩
  simp [quiet, params]

theorem witness_SelectChannel : (64 < 256 ∧ 63 < 64) ∧ Idle quiet ∧ quiet.bracket = .closed ∧
    Idle opened ∧ opened.bracket ≠ .closed := ⟨by decide, rfl, rfl, rfl, by decide⟩

theorem witness_SampleChannel : (63 < 256 ∧ 63 ≤ 63 ∧ 63 < 255) ∧ Idle quiet ∧
    quiet.bracket = .closed ∧ Idle opened ∧ opened.bracket ≠ .closed :=
  ⟨by decide, rfl, rfl, rfl, by decide⟩

/-- The first and the last muscle, and the ids beside them. -/
theorem witness_Lookups_muscle : Idle quiet ∧
    (0 < quiet.params.nSlaves ∧ quiet.readByte (0x501 + 4 * 0) = 39) ∧
    (23 < quiet.params.nSlaves ∧ quiet.readByte (0x501 + 4 * 23) = 62 ∧
      ∀ j < 23, quiet.readByte (0x501 + 4 * j) ≠ 62) ∧
    (∀ i < 24, quiet.readByte (0x501 + 4 * i) ≠ 38) ∧
    ∀ i < 24, quiet.readByte (0x501 + 4 * i) ≠ 63 := ⟨rfl, by decide⟩

/-- The first and the last slave, and the ids beside them. -/
theorem witness_Lookups_slave : Idle quiet ∧
    (0 < quiet.params.nSlaves ∧ quiet.readByte (0x500 + 4 * 0) = 1) ∧
    (23 < quiet.params.nSlaves ∧ quiet.readByte (0x500 + 4 * 23) = 24 ∧
      ∀ j < 23, quiet.readByte (0x500 + 4 * j) ≠ 24) ∧
    (∀ i < 24, quiet.readByte (0x500 + 4 * i) ≠ 0) ∧
    ∀ i < 24, quiet.readByte (0x500 + 4 * i) ≠ 25 := ⟨rfl, by decide⟩

theorem witness_BeginOpensABracket : (Idle opened ∧ opened.bracket ≠ .closed ∧ 1 < 256) ∧
    (Idle quiet ∧ quiet.bracket = .closed ∧ quiet.params.nSlaves ≤ 24 ∧ 24 < 256) ∧
    23 < quiet.params.nSlaves := ⟨⟨rfl, by decide⟩, ⟨rfl, by decide⟩, by decide⟩

theorem witness_EndClosesTheBracket : (Idle quiet ∧ quiet.bracket = .closed) ∧
    Idle opened ∧ opened.bracket ≠ .closed := ⟨⟨rfl, rfl⟩, rfl, by decide⟩

theorem witness_ByteExchange : opened.bracket = .opened 2 := rfl

theorem witness_PeerReply : opened.peers[2]? = some peer ∧ peer.attached = true ∧
    opened.selects 2 = true ∧ peer.readyAt ≤ opened.byteStart ∧
    opened.peers[3]? = some peer ∧ opened.selects 3 = false := by decide

/-- An early exchange, and a safe state whose slaves keep up. -/
theorem witness_PeerReply_early :
    (let s := { opened with peers := List.replicate 24 { peer with readyAt := 1 } }
     s.selects 2 = true ∧ s.byteStart < 1) ∧
    Inv opened ∧ Idle opened ∧ opened.params.slavesKeepUp = true ∧ opened.bracket = .opened 2 :=
  ⟨by decide, witness_EveryStepKeepsTheInvariant_open.1, rfl, rfl, rfl⟩

theorem witness_PeerByteInterrupt : peer.readyAt ≤ 0 ∧ peer.spiIndex = 0 ∧
    ({ peer with spiIndex := 1 }).spiIndex = 1 ∧ 2 ≤ ({ peer with spiIndex := 2 }).spiIndex := by decide

/-- A staged byte to load, and none. -/
theorem witness_PeerByteInterrupt_staged :
    ({ peer with spiIndex := 2, staged := [7, 8] }).staged[2 - 1]? = some 8 ∧
    ({ peer with spiIndex := 3, staged := [7, 8] }).staged[3 - 1]? = none := by decide

theorem witness_UnselectedPeersKeepTheirState : Move.tick ≠ .wait ∧ opened.selects 3 = false := by decide

theorem witness_TransfersInABracket : (Idle quiet ∧ quiet.bracket = .closed) ∧
    Idle opened ∧ opened.bracket ≠ .closed := ⟨⟨rfl, rfl⟩, rfl, by decide⟩

theorem witness_ArrayTransferInABracket : (Idle quiet ∧ quiet.bracket = .closed) ∧ Idle opened ∧
    opened.bracket = .opened 2 ∧ 2 < opened.params.nSlaves ∧ 1 ≤ 8 ∧ 8 < 9 ∧ 9 < 16 :=
  ⟨⟨rfl, rfl⟩, rfl, rfl, by decide⟩

/-- One slave by its id, all of them, and an id that no row has. -/
theorem quiet_targets : Targets quiet 24 [23] ∧ Targets quiet 255 (List.range 24) ∧ Unknown quiet 25 := by
  refine ⟨.inr ⟨by decide, 23, by decide, by decide, by decide, rfl⟩, .inl ⟨rfl, rfl⟩, by decide, ?_⟩
  show ∀ i < 24, _
  decide

theorem witness_BracketedWrites : (Idle opened ∧ opened.bracket ≠ .closed) ∧
    (Idle quiet ∧ quiet.bracket = .closed ∧ Targets quiet 24 [23] ∧ Unknown quiet 25) ∧
    badCount 0 = some 0 ∧ badCount 1 = none ∧ badCount 8 = none ∧ badCount 9 = some 9 :=
  ⟨⟨rfl, by decide⟩, ⟨rfl, rfl, quiet_targets.1, quiet_targets.2.2⟩, by decide⟩

theorem witness_BracketedReads : (Idle opened ∧ opened.bracket ≠ .closed) ∧
    Idle quiet ∧ quiet.bracket = .closed ∧ Targets quiet 255 (List.range 24) ∧ Unknown quiet 25 :=
  ⟨⟨rfl, by decide⟩, rfl, rfl, quiet_targets.2.1, quiet_targets.2.2⟩

theorem witness_BracketedExchanges : (Idle opened ∧ opened.bracket ≠ .closed) ∧
    Idle quiet ∧ quiet.bracket = .closed ∧ Targets quiet 24 [23] ∧ Unknown quiet 25 :=
  ⟨⟨rfl, by decide⟩, rfl, rfl, quiet_targets.1, quiet_targets.2.2⟩

theorem witness_Transactions : (Idle opened ∧ opened.params.wf = true ∧ opened.bracket ≠ .closed) ∧
    (Idle quiet ∧ quiet.params.wf = true ∧ quiet.bracket = .closed) ∧
    Unknown quiet 25 ∧ Targets quiet 24 [23] ∧ Targets quiet 255 (List.range 24) :=
  ⟨⟨rfl, rfl, by decide⟩, ⟨rfl, rfl, rfl⟩, quiet_targets.2.2, quiet_targets.1, quiet_targets.2.1⟩

theorem witness_TransactionsInStepReadSensors : Idle quiet ∧ quiet.bracket = .closed ∧
    quiet.params.wf = true ∧ quiet.params.tSlaveIsr ≤ quiet.params.tIb ∧ Targets quiet 24 [23] ∧
    quiet.peers[23]? = some peer ∧ peer.readyAt ≤ quiet.now + quiet.params.tSettle ∧ peer.attached = true ∧ peer.spiIndex = 0 ∧ quiet.sensorId = 1 ∧
    quiet.params.lenTiming = .current :=
  ⟨rfl, rfl, rfl, by decide, quiet_targets.1, rfl, by decide, rfl, rfl, rfl, rfl⟩

/-- The wildcard sensor, with the length already switched. -/
theorem witness_TransactionsInStepReadSensors_all :
    ({ quiet with sensorId := 255 }).sensorId = 255 ∧
      ({ peer with maxSpiIndex := .eight }).maxSpiIndex = .eight := by decide

theorem witness_FanOutAndHarvest : (Idle opened ∧ opened.params.wf = true ∧ opened.bracket ≠ .closed) ∧
    (Idle quiet ∧ quiet.params.wf = true ∧ quiet.bracket = .closed ∧ quiet.sensorId = 1) ∧
    ({ quiet with sensorId := 4 }).sensorId ≠ 3 ∧
    ((poked 0x300 [38] quiet).readByte 0x300).toNat = 38 ∧
    38 < ((poked 0x300 [39] quiet).readByte 0x300).toNat :=
  ⟨⟨rfl, rfl, by decide⟩, ⟨rfl, rfl, rfl, rfl⟩, by decide, by decide, by decide⟩

/-- A known and an unknown command. -/
theorem witness_FanOutAndHarvest_commands : hits (orders quiet) 2 = [⟨39, 0x0100, 0⟩] ∧
    misses (orders quiet) 2 = [99] := by decide

theorem witness_MirrorToDac : Idle quiet ∧
    (quiet.readByte 0x400).toNat ≤ quiet.ctrl.mirrorSlot.toNat ∧
    (let s := { poked 0x400 [39] quiet with ctrl := { quiet.ctrl with mirrorSlot := 37 } }
     s.ctrl.mirrorSlot.toNat < (s.readByte 0x400).toNat ∧ s.ctrl.mirrorSlot.toNat < 38) ∧
    (let s := { poked 0x400 [39] quiet with ctrl := { quiet.ctrl with mirrorSlot := 38 } }
     38 ≤ s.ctrl.mirrorSlot.toNat) := ⟨rfl, by decide⟩

/-- The marker ends at the limit. -/
theorem witness_MarkerSearch : Idle (framed [1, 0xFF, 0xFF]) ∧
    FoundAt { framed [1, 0xFF, 0xFF] with syncLim := 3 } 3 := by
  refine ⟨rfl, ⟨by decide, by decide, ?_⟩, ?_, .inr (by decide)⟩
  · show ∀ j, 3 - 2 ≤ j → j < 3 → _
    intro j h1 h2
    interval_cases j <;> rfl
  · intro m hm h
    have h0 := h.1
    have h1 := h.2.2 (m - 2) (by exact le_rfl) (by have : 2 ≤ m := h0; omega)
    have hm2 : m = 2 := by have : 2 ≤ m := h0; omega
    subst hm2
    exact absurd h1 (by decide)

/-- The limit one byte shorter is spent. -/
theorem witness_MarkerSearch_fails : SearchFails { framed [1, 0xFF, 0xFF] with syncLim := 2 } := by
  refine ⟨by decide, by decide, ?_⟩
  intro m hm h
  have hm : m ≤ 2 := hm
  have h0 : 2 ≤ m := h.1
  have h1 := h.2.2 (m - 2) (by exact le_rfl) (by omega)
  have hm2 : m = 2 := by omega
  subst hm2
  exact absurd h1 (by decide)

/-- No byte at all. -/
theorem witness_MarkerSearch_waits : SearchWaits quiet := by
  refine ⟨.inl rfl, ?_⟩
  intro m h
  have h0 : 2 ≤ m := h.1
  have h1 : m ≤ 0 := h.2.1
  omega

/-- The marker of the frame of S7 ends after two bytes. -/
theorem frame_found (s : State) (hs : s.ctrl.start2 = true) (hl : s.syncLim = 0) (rest : List Byte)
    (hr : s.rx = 0xFF :: 0xFF :: rest) : FoundAt s 2 := by
  have hm : markerLen s = 2 := by simp [markerLen, hs]
  refine ⟨⟨by omega, by simp [hr], ?_⟩, ?_, .inl hl⟩
  · intro j h1 h2
    rw [hr]
    interval_cases j <;> rfl
  · intro m hm' h
    have := h.1
    omega

theorem witness_ReadBatch : Idle (framed frame) ∧ FoundAt (framed frame) 2 ∧
    (framed frame).rx.drop 2 = 2 :: [5, 10, 0, 7, 20, 0, 0x2C] ∧ (2 : Byte).toNat ≤ 38 ∧
    [5, 10, 0, 7, 20, 0, 0x2C] = [5, 10, 0, 7, 20, 0] ++ ([0x2C] : List Byte) ∧
    [5, 10, 0, 7, 20, 0].length = 3 * (2 : Byte).toNat ∧ (framed frame).ctrl.rxChk ≠ .none ∧
    (0x2C : Byte) = trailer (framed frame) 2 [5, 10, 0, 7, 20, 0] ∧
    (0x2D : Byte) ≠ trailer (framed frame) 2 [5, 10, 0, 7, 20, 0] :=
  ⟨rfl, frame_found _ rfl rfl _ rfl, by decide⟩

/-- A count above the batch, and the largest one. -/
theorem witness_ReadBatch_count : FoundAt (framed [0xFF, 0xFF, 39]) 2 ∧
    (framed [0xFF, 0xFF, 39]).rx.drop 2 = 39 :: [] ∧ 38 < (39 : Byte).toNat ∧ (38 : Byte).toNat ≤ 38 :=
  ⟨frame_found _ rfl rfl _ rfl, by decide⟩

theorem witness_WriteBatch : Idle (poked 0x400 [38] quiet) ∧
    ((poked 0x400 [38] quiet).readByte 0x400).toNat ≤ 38 ∧
    38 < ((poked 0x400 [39] quiet).readByte 0x400).toNat := ⟨rfl, by decide⟩

theorem witness_ChecksumOfTheBatch : Idle (poked 0x400 [39] quiet) ∧
    38 < ((poked 0x400 [39] quiet).readByte 0x400).toNat ∧ (quiet.readByte 0x400).toNat ≤ 38 :=
  ⟨rfl, by decide⟩

theorem witness_ClearBatch : Idle quiet ∧ 1 < 2 ∧ 255 < 256 := ⟨rfl, by decide⟩

theorem witness_PutRecord : Idle (poked 0x400 [37] quiet) ∧
    ((poked 0x400 [37] quiet).readByte 0x400).toNat < 38 ∧
    38 ≤ ((poked 0x400 [38] quiet).readByte 0x400).toNat := ⟨rfl, by decide⟩

theorem witness_FramesReadBack : Idle batch ∧ Idle (framed frame) ∧ (batch.readByte 0x400).toNat ≤ 38 ∧
    exec .wrbatch batch = .next (after batch 0x62000000) ∧
    (after batch 0x62000000).tx = batch.tx ++ frame ∧ (framed frame).rx = frame ++ [] ∧
    (framed frame).ctrl.start2 = batch.ctrl.start2 ∧ (framed frame).ctrl.zeroEnd = batch.ctrl.zeroEnd ∧
    (framed frame).ctrl.ckSeed = batch.ctrl.ckSeed ∧ (framed frame).syncLim = 0 :=
  ⟨rfl, rfl, by decide, rfl, by decide⟩

/-- Too narrow, misaligned, past the registers, and read-only. -/
theorem witness_RefusedAccesses : ¬ Accepted 0x000 2 ∧ ¬ Accepted 0x002 4 ∧ ¬ Accepted 0x02C 4 ∧
    ¬ Accepted 0x560 4 ∧ ReadOnly 0x010 ∧ ReadOnly 0x2BC ∧ ReadOnly 0x600 := by
  simp [Accepted, Mapped, ReadOnly]

/-- The last word, 0x55C, is one of an entry without a slave where there are fewer than 24. -/
theorem witness_WritesWhileBusy : waiting.busy = true ∧ Accepted 0x014 4 ∧ ¬ ReadOnly 0x014 ∧
    Accepted 0x55C 4 ∧ ¬ ReadOnly 0x55C := by
  simp [Accepted, Mapped, ReadOnly, waiting, State.busy]

/-- A window the running operation writes, its first and last word, and windows it does not. -/
theorem witness_ReadsWhileBusy : (∃ r, reading.seq = .running r ∧ r.op = .rdbatch) ∧
    Accepted 0x010 4 ∧ Accepted 0x028 4 ∧
    (Accepted 0x300 4 ∧ WritesWindow .rdbatch 0x300) ∧ (Accepted 0x370 4 ∧ WritesWindow .rdbatch 0x370) ∧
    (Accepted 0x104 4 ∧ ¬ WritesWindow .rdbatch 0x104) ∧ (Accepted 0x400 4 ∧ ¬ WritesWindow .rdbatch 0x400) ∧
    (Accepted 0x6BC 4 ∧ WritesWindow (.txn 1 0) 0x6BC) ∧ Accepted 0x200 4 ∧ WritesWindow .swap 0x200 := by
  refine ⟨⟨_, rfl, rfl⟩, ?_⟩
  simp [Accepted, Mapped, WritesWindow]

theorem witness_ReadsWhileIdle : Idle quiet ∧ Accepted 0x000 4 ∧ Accepted 0x6BC 4 ∧ Accepted 0x470 4 := by
  refine ⟨rfl, ?_⟩
  simp [Accepted, Mapped]

theorem witness_RegisterWrites : Idle quiet := rfl

theorem witness_WindowWrites : Idle quiet ∧ quiet.params.wf = true ∧ Accepted 0x104 4 ∧
    Accepted 0x300 4 ∧ Accepted 0x370 4 ∧ Accepted 0x470 4 := by
  refine ⟨rfl, rfl, ?_⟩
  simp [Accepted, Mapped]

theorem witness_RegistryWrites : Idle quiet ∧ quiet.params.wf = true ∧ 23 < quiet.params.nSlaves ∧
    (0x000164FF : Word).toNat % 256 = 255 ∧ (0x0001FF03 : Word).toNat / 256 % 256 = 255 ∧
    (0x00016403 : Word).toNat % 256 ≠ 255 ∧ (0x00016403 : Word).toNat / 256 % 256 ≠ 255 :=
  ⟨rfl, rfl, by decide⟩

theorem witness_ReceiveTimeout :
    (let s := { waiting with ctrl := { waiting.ctrl with rxTmoEn := true } }
     s.waiting = true ∧ s.ctrl.rxTmoEn = true ∧ s.bracket = .closed) ∧
    quiet.waiting = false ∧ waiting.ctrl.rxTmoEn = false := by decide

theorem witness_Lookups_sentinel : Idle quiet ∧ Inv quiet :=
  ⟨rfl, witness_EveryStepKeepsTheInvariant.1⟩

theorem witness_HostMoves : ({ quiet with tx := [1, 2] }).tx = 1 :: [2] ∧ quiet.tx = [] := ⟨rfl, rfl⟩

end Sys2Proof.Tests
end

section
/-! SUPPORT. What one step of the sequencer may change (10_state.md R40; 20_memory.md R47, R51): a frame
with the byte offsets a step may store to, one rule for each named update, then one for each step. -/

namespace Sys2Proof.Proofs

open Sys2Proof.Machine Sys2Proof.Safety

/-- From `s` to `t` the sequencer has kept the configuration, has only set error bits and `DONE`, taken
from `RX`, appended to `TX` and the bus history, let time pass, and stored bytes at the offsets `stored`
only. An update that leaves a field alone needs no proof for it. -/
structure StepFrame (stored : Nat → Prop) (s t : State) : Prop where
  params : t.params = s.params := by rfl
  ctrl : t.ctrl = s.ctrl := by rfl
  commandId : t.commandId = s.commandId := by rfl
  sensorId : t.sensorId = s.sensorId := by rfl
  syncLim : t.syncLim = s.syncLim := by rfl
  moves : t.moves = s.moves := by rfl
  readData : t.readData = s.readData := by rfl
  errKind : s.errKind ||| t.errKind = t.errKind := by exact BitVec.or_self
  done : s.done = true → t.done = true := by exact id
  rx : t.rx <:+ s.rx := by exact List.suffix_refl _
  tx : s.tx <+: t.tx := by exact List.prefix_refl _
  bus : s.bus <+: t.bus := by exact List.prefix_refl _
  now : s.now ≤ t.now := by exact Nat.le_refl _
  bytes : ∀ off, ¬ stored off → t.readByte off = s.readByte off := by exact fun _ _ => rfl

section
variable {stored : Nat → Prop} {s t u : State}

theorem StepFrame.refl : StepFrame stored s s := {}

theorem StepFrame.trans (h : StepFrame stored s t) (h' : StepFrame stored t u) :
    StepFrame stored s u where
  params := h'.params.trans h.params
  ctrl := h'.ctrl.trans h.ctrl
  commandId := h'.commandId.trans h.commandId
  sensorId := h'.sensorId.trans h.sensorId
  syncLim := h'.syncLim.trans h.syncLim
  moves := h'.moves.trans h.moves
  readData := h'.readData.trans h.readData
  errKind := by rw [← h'.errKind, ← BitVec.or_assoc, h.errKind]
  done := h'.done ∘ h.done
  rx := h'.rx.trans h.rx
  tx := h.tx.trans h'.tx
  bus := h.bus.trans h'.bus
  now := h.now.trans h'.now
  bytes off hoff := (h'.bytes off hoff).trans (h.bytes off hoff)

/-! ## The named updates -/

theorem record_frame (k : ErrorKind) (info : Half) : StepFrame stored s (s.record k info) where
  errKind := by rw [State.record_errKind, ← BitVec.or_assoc, BitVec.or_self]

theorem endNow_frame : StepFrame stored s s.endNow where
  bus := List.prefix_append _ _

theorem finish_frame : StepFrame stored s s.finish where
  done _ := rfl

theorem raiseError_frame (k : ErrorKind) (info : Half) (loc : Locals) :
    StepFrame stored s (s.raiseError k info loc) := by
  have hr : StepFrame stored s (s.record k info) := record_frame k info
  unfold State.raiseError
  dsimp only
  split
  · exact (hr.trans endNow_frame).trans finish_frame
  · exact hr.trans finish_frame

theorem writeByte_frame (off : Nat) (b : Byte) (h : stored off) :
    StepFrame stored s (s.writeByte off b) where
  bytes a ha := readByte_writeByte_other s a off b fun e => ha (e ▸ h)

theorem exchange_frame (out : Byte) : StepFrame stored s (s.exchange out) where
  bus := List.prefix_append _ _
  now := byteStart_ge s

theorem transmit_frame (b : Byte) : StepFrame stored s (s.transmit b) where
  tx := List.prefix_append _ _

theorem settle_frame : StepFrame stored s s.settle where
  now := Nat.le_add_right _ _

theorem assertCs_frame (i : Nat) : StepFrame stored s (s.assertCs i) where
  bus := List.prefix_append _ _

theorem keepBatch_frame (count : Byte) (trailer : Half) (h : stored cmdBatchBase) :
    StepFrame stored s (s.keepBatch count trailer) :=
  have hc : StepFrame stored s (s.writeByte cmdBatchBase count) := writeByte_frame _ _ h
  have hr : StepFrame stored (s.writeByte cmdBatchBase count)
    ((s.writeByte cmdBatchBase count).setResult (zext count) trailer) := {}
  (hc.trans hr).trans finish_frame

theorem updateRecord_frame (h : ∀ off, slaveRecBase ≤ off → stored off) (i : Nat) (c d : Byte)
    (v : Half) (r : List Byte) : StepFrame stored s (s.updateRecord i c d v r) := by
  refine updateRecord_induct (StepFrame stored s) (fun t off x hoff ht => ?_) s .refl i c d v r
  exact (ht.trans (writeByte_frame off _ (h _ hoff))).trans
    (writeByte_frame (off + 1) _ (h _ (by omega)))

/-! ## The steps -/

/-- Every state a step leads to has the property. -/
def Leads (P : State → Prop) : Progress → Prop
  | .go t _ _ => P t
  | .waits => True
  | .stops t => P t

/-- The byte offsets a step may store to. -/
def storesTo : Micro → Nat → Prop
  | .exchange _ (.rxBuf i k), off => off = rxBufBase + 8 * i + k
  | .poke base _, off => off = base
  | .takeInto base, off => off = base
  | .updateRecord _ _ _ _, off => slaveRecBase ≤ off
  | .keepBatch _, off => off = cmdBatchBase
  | _, _ => False

/-- Taking a host byte takes from `RX` alone, so the frame is that of what is done with the byte. -/
theorem takeByte_frame (k : Byte → State → Progress)
    (hk : ∀ b u, Leads (StepFrame stored u) (k b u)) :
    Leads (StepFrame stored s) (s.takeByte k) := by
  unfold State.takeByte
  split
  · trivial
  · rename_i b rest hrx
    have hu : StepFrame stored s { s with rx := rest } := { rx := hrx ▸ List.suffix_cons b rest }
    have hb := hk b { s with rx := rest }
    revert hb
    cases k b { s with rx := rest } with
    | go | stops => exact hu.trans
    | waits => exact id

theorem searchStep_frame (loc : Locals) (b : Byte) :
    Leads (StepFrame stored s) (searchStep loc b s) := by
  have hw : StepFrame stored s (s.shiftWindow b) := {}
  unfold searchStep
  dsimp only
  split
  · exact hw
  · split
    · exact hw.trans (raiseError_frame _ _ _)
    · exact hw

theorem countStep_frame (loc : Locals) (c : Byte) :
    Leads (StepFrame stored s) (countStep loc c s) := by
  unfold countStep
  split
  · exact raiseError_frame _ _ _
  · exact .refl

theorem trailerStep_frame (c : Byte) (loc : Locals) (b : Byte) :
    Leads (StepFrame stored s) (trailerStep c loc b s) := by
  unfold trailerStep
  split
  · exact .refl
  · split
    · exact raiseError_frame _ _ _
    · exact record_frame _ _

theorem appendStep_frame (id : Byte) (v : Half) (loc : Locals) :
    Leads (StepFrame stored s) (appendStep id v loc s) := by
  unfold appendStep
  dsimp only
  split
  · exact record_frame _ _
  · exact .refl

theorem exchangeStep_frame (out : Byte) (dest : Dest) (loc : Locals) :
    Leads (StepFrame (storesTo (.exchange out dest)) s) (exchangeStep out dest loc s) := by
  cases dest with
  | discard => exact exchange_frame out
  | rxBuf i k => exact (exchange_frame out).trans (writeByte_frame _ _ rfl)

/-- A step keeps the frame of the offsets it stores to. -/
theorem stepMicro_frame (m : Micro) (loc : Locals) (s : State) :
    Leads (StepFrame (storesTo m) s) (stepMicro m loc s) := by
  cases m with
  | settle => exact settle_frame
  | assertCs i => exact assertCs_frame i
  | releaseCs => exact endNow_frame
  | exchange out dest => exact exchangeStep_frame out dest loc
  | poke off b => exact writeByte_frame off b rfl
  | updateRecord i c d v => exact updateRecord_frame (fun _ h => h) i c d v _
  | append id v => exact appendStep_frame id v loc
  | appendReply id => exact appendStep_frame id _ _
  | searchByte => exact takeByte_frame _ fun b _ => searchStep_frame loc b
  | takeCount => exact takeByte_frame _ fun c _ => countStep_frame loc c
  | takeInto off =>
    exact takeByte_frame (fun b t => .go (t.writeByte off b) loc []) fun b _ =>
      writeByte_frame (stored := storesTo (.takeInto off)) off b rfl
  | takeTrailer c => exact takeByte_frame _ fun b _ => trailerStep_frame c loc b
  | transmit b => exact transmit_frame b
  | keepBatch c => exact keepBatch_frame c _ rfl
  | flag k info => exact record_frame k info
  | raise k info => exact raiseError_frame k info loc
  | setMux | raiseCs | sampleAdc | keepReplies | countUnknown | startSearch | result | resultReply8
  | resultReply16 | resultTxn | resultSwap | resultSearch | setDac => exact {}

end

/-- The offsets the sequencer's next step may store to. -/
def nextStoresTo (s : State) (off : Nat) : Prop :=
  ∃ r m rest, s.seq = .running r ∧ r.todo = m :: rest ∧ storesTo m off

/-- A step of the sequencer keeps the frame. -/
theorem tick_frame (s : State) : StepFrame (nextStoresTo s) s (tick s) := by
  unfold tick
  split
  · exact .refl
  · rename_i r hr
    split
    · exact finish_frame
    · rename_i m rest hm
      have hstores : storesTo m = nextStoresTo s := by
        funext off
        simp [nextStoresTo, hr, hm]
      have hstep := stepMicro_frame m r.loc s
      rw [hstores] at hstep
      split
      · rename_i t loc more ht
        rw [ht] at hstep
        exact StepFrame.trans hstep {}
      · exact .refl
      · rename_i t ht
        rwa [ht] at hstep

theorem inBuffers_iff (off : Nat) : inBuffers off = true ↔ 0x200 ≤ off ∧ off < 0x500 := by
  rw [inBuffers, Bool.and_eq_true, decide_eq_true_eq, decide_eq_true_eq]
  rfl

/-- A step that stores safely stores to `RXBUF`, a batch or `SLAVEREC`: never to `TXBUF` or the
registry. -/
theorem storesTo_of_storesSafely {n : Nat} (hn : n ≤ 24) {m : Micro} (h : storesSafely n m = true)
    {off : Nat} (hoff : storesTo m off) : (0x200 ≤ off ∧ off < 0x500) ∨ 0x600 ≤ off := by
  cases m with
  | exchange out dest =>
    cases dest with
    | discard => exact hoff.elim
    | rxBuf i k =>
      simp only [storesSafely, Bool.and_eq_true, decide_eq_true_eq] at h
      simp only [storesTo, rxBufBase] at hoff
      omega
  | poke base b => exact .inl ((inBuffers_iff off).1 (hoff ▸ h))
  | takeInto base => exact .inl ((inBuffers_iff off).1 (hoff ▸ h))
  | updateRecord => exact .inr hoff
  | keepBatch c => exact .inl (by rw [hoff]; decide)
  | setMux | settle | assertCs | raiseCs | releaseCs | sampleAdc | keepReplies | append | appendReply
  | countUnknown | startSearch | searchByte | takeCount | takeTrailer | transmit | result
  | resultReply8 | resultReply16 | resultTxn | resultSwap | resultSearch | setDac | flag | raise =>
    exact hoff.elim

theorem nSlaves_le_of_wf {p : Params} (h : p.wf = true) : p.nSlaves ≤ 24 := by
  simp only [Params.wf, Bool.and_eq_true, decide_eq_true_eq] at h
  obtain ⟨⟨⟨⟨-, hn⟩, -⟩, -⟩, -⟩ := h
  exact hn

/-- In a safe state the next step stores safely. -/
theorem storesSafely_of_inv {s : State} (h : Inv s) {r : Running} (hr : s.seq = .running r) {m : Micro}
    {rest : List Micro} (hm : r.todo = m :: rest) : storesSafely s.params.nSlaves m = true := by
  have hpins := h.pins
  simp only [PinsOk, hr, hm, safeSteps, Bool.and_eq_true] at hpins
  obtain ⟨_, -, hsafe, -⟩ := hpins
  exact hsafe

/-- Settles O13: the frame of one step, and in a safe state the step stores outside `TXBUF` and
`REGISTRY`. -/
theorem sequencerFrame : Obligations.SequencerFrame := by
  intro s
  have h := tick_frame s
  refine ⟨h.params, h.ctrl, h.commandId, h.sensorId, h.syncLim, h.moves, h.readData, h.errKind,
    h.done, h.rx, h.tx, h.bus, h.now, fun hinv off hoff => h.bytes off ?_⟩
  rintro ⟨r, m, rest, hr, hm, hstores⟩
  have hplace := storesTo_of_storesSafely (nSlaves_le_of_wf hinv.params)
    (storesSafely_of_inv hinv hr hm) hstores
  omega

end Sys2Proof.Proofs
end

section
/-! SUPPORT. The words of the registers as sums of their fields (10_state.md R16 to R26; 60_exceptions.md
R145), and what a controller write to a register or a buffer of an idle block changes (R16, R22 to R24,
R27 to R30; 20_memory.md R42, R43). -/

namespace Sys2Proof.Proofs

open Sys2Proof.Machine Sys2Proof.Safety

/-! ## Words put together from fields -/

theorem toNat_append_eq_add {m n : Nat} (x : BitVec m) (y : BitVec n) :
    (x ++ y).toNat = x.toNat * 2 ^ n + y.toNat := by
  rw [BitVec.toNat_append, ← Nat.shiftLeft_add_eq_or_of_lt y.isLt, Nat.shiftLeft_eq]

theorem flagBit_eq (b : Bool) (n : Nat) : flagBit b n = (bit b).toNat * 2 ^ n := by
  cases b <;> simp [flagBit, bit]

/-- A zero-extended field reads as the field. -/
theorem toNat_setWidth_word {n : Nat} (hn : n ≤ 32) (x : BitVec n) :
    (x.setWidth 32 : Word).toNat = x.toNat := by
  rw [BitVec.toNat_setWidth]
  exact Nat.mod_eq_of_lt (x.isLt.trans_le (Nat.pow_le_pow_right (by omega) hn))

theorem rxChk_code_toNat (c : RxCheck) :
    c.code.toNat = match c with | .none => 0 | .discard => 1 | .report => 2 := by
  cases c <;> rfl

theorem cs_code_toNat (c : ChipSelect) :
    c.code.toNat = match c with | .released => 0 | .high => 1 | .low => 2 := by
  cases c <;> rfl

theorem openIdx_toNat (s : State) :
    s.openIdx.toNat = match s.bracket with | .closed => 0xFF | .opened i => i % 256 := by
  unfold State.openIdx
  cases s.bracket with
  | closed => rfl
  | opened i => exact BitVec.toNat_ofNat _ _

theorem isOpen_eq (s : State) : s.isOpen = decide (s.bracket ≠ .closed) := by
  unfold State.isOpen
  cases s.bracket <;> rfl

theorem rxAvail_eq (s : State) : s.rxAvail = decide (s.rx ≠ []) := by
  unfold State.rxAvail
  cases s.rx <;> rfl

/-- `CTRL` (R16). -/
theorem ctrl_word_toNat (c : Ctrl) :
    c.word.toNat = flagBit c.irqEn 0 + flagBit c.start2 1 + flagBit c.zeroEnd 2 + flagBit c.ckSeed 3 +
      2 ^ 4 * (match c.rxChk with | .none => 0 | .discard => 1 | .report => 2) +
      flagBit c.unkErr 6 + flagBit c.rxTmoEn 7 + 2 ^ 8 * c.padCount.toNat +
      2 ^ 16 * c.mirrorSlot.toNat := by
  rw [← rxChk_code_toNat]
  simp only [Ctrl.word, toNat_append_eq_add, flagBit_eq, BitVec.toNat_zero]
  omega

/-- `STATUS` (R17). -/
theorem statusWord_toNat (s : State) :
    s.statusWord.toNat = flagBit s.busy 0 + flagBit s.done 1 +
      flagBit (decide (s.bracket ≠ .closed)) 2 + flagBit (decide (s.errKind ≠ 0)) 3 +
      flagBit (decide (s.rx ≠ [])) 4 + 2 ^ 8 * (8 * s.muxU.toNat + s.muxL.toNat) +
      2 ^ 14 * (match s.cs with | .released => 0 | .high => 1 | .low => 2) +
      2 ^ 16 * (match s.bracket with | .closed => 0xFF | .opened i => i % 256) := by
  rw [← cs_code_toNat, ← openIdx_toNat, ← isOpen_eq, ← rxAvail_eq]
  simp only [State.statusWord, State.muxCh, State.errAny, toNat_append_eq_add, flagBit_eq,
    BitVec.toNat_zero]
  omega

/-- `ERR` (R18). -/
theorem errWord_toNat (s : State) :
    s.errWord.toNat = 2 * s.errKind.toNat + 2 ^ 24 * s.lastCause.toNat := by
  simp only [State.errWord, toNat_append_eq_add, BitVec.toNat_zero]
  omega

/-- `CFG` (R26). -/
theorem cfgWord_toNat (s : State) :
    s.cfgWord.toNat = s.params.nSlaves % 256 + 2 ^ 8 * 38 + 2 ^ 16 * 38 + 2 ^ 24 * 8 := by
  simp only [State.cfgWord, wordOf, toNat_append_eq_add, BitVec.toNat_ofNat, Config.cmdMax,
    Config.sensMax, Config.bufLen]
  omega

theorem result_toNat (s : State) :
    (s.registerWord 0x010).toNat = s.res0.toNat + 2 ^ 16 * s.res1.toNat := by
  rw [show s.registerWord 0x010 = s.res1 ++ s.res0 from rfl, toNat_append_eq_add]
  omega

theorem txhdr_toNat (s : State) :
    (s.registerWord 0x014).toNat = s.commandId.toNat + 2 ^ 8 * s.sensorId.toNat := by
  rw [show s.registerWord 0x014 = 0#16 ++ s.sensorId ++ s.commandId from rfl]
  simp only [toNat_append_eq_add, BitVec.toNat_zero]
  omega

/-- Settles O52: one lemma per register. -/
theorem registerWords : Obligations.RegisterWords := fun s =>
  ⟨ctrl_word_toNat s.ctrl, statusWord_toNat s, errWord_toNat s, rfl, result_toNat s, txhdr_toNat s,
    toNat_setWidth_word (by decide) s.unkCnt, toNat_setWidth_word (by decide) s.syncLim,
    toNat_setWidth_word (by decide) s.dac, cfgWord_toNat s, toNat_setWidth_word (by decide) s.errInfo⟩

/-! ## A write to an idle block -/

/-- What an accepted write to an idle block does, other than to `STATUS`, `ERR` and `CMD`. -/
theorem portWrite_idle {s : State} {off : BitVec 12} {v : Word} (hidle : Idle s)
    (hgood : goodAccess off 4 = true) (hro : readOnlyWord off.toNat = false) (hstatus : off ≠ 0x004)
    (herr : off ≠ 0x008) (hcmd : off ≠ 0x00C) : s.portWrite off 4 v = s.writeIdle off.toNat v := by
  rw [State.portWrite, hgood, hro, if_pos (by rfl), if_neg hcmd, if_neg hstatus, if_neg herr,
    busy_of_idle s hidle, if_neg Bool.false_ne_true]

/-- `RXCHK` is WARL: a written 3 is kept as 0, any other value as itself (R16). -/
theorem rxChk_code_ofCode (v : BitVec 2) : (RxCheck.ofCode v).code = if v = 3 then 0 else v := by
  decide +revert

theorem rxChk_field_eq_three (v : Word) : v.extractLsb' 4 2 = 3 ↔ v.toNat / 16 % 4 = 3 := by
  rw [← BitVec.toNat_inj, BitVec.extractLsb'_toNat, Nat.shiftRight_eq_div_pow]
  rfl

/-- A word written to `CTRL` reads back without its reserved bits, and with `RXCHK` 0 for 3 (R16). -/
theorem ctrl_word_ofWord (v : Word) :
    (Ctrl.ofWord v).word = v &&& (if v.toNat / 16 % 4 = 3 then 0x00FFFFCF else 0x00FFFFFF) := by
  simp only [Ctrl.word, Ctrl.ofWord, rxChk_code_ofCode, rxChk_field_eq_three]
  split
  all_goals
    refine BitVec.eq_of_getLsbD_eq fun i hi => ?_
    simp only [BitVec.getLsbD_append]
    interval_cases i <;> simp [bit]

theorem and_low_half (v : Word) : v &&& 0x0000FFFF = (v.extractLsb' 0 16).setWidth 32 := by
  apply BitVec.eq_of_toNat_eq
  rw [toNat_setWidth_word (by decide), BitVec.extractLsb'_toNat, BitVec.toNat_and, Nat.shiftRight_zero]
  exact Nat.and_two_pow_sub_one_eq_mod v.toNat 16

theorem txhdr_word_of_bytes (v : Word) : 0#16 ++ byteOf v 1 ++ byteOf v 0 = v &&& 0x0000FFFF := by
  rw [and_low_half]
  apply BitVec.eq_of_toNat_eq
  simp only [toNat_append_eq_add, byteOf, toNat_setWidth_word, BitVec.extractLsb'_toNat,
    Nat.shiftRight_eq_div_pow, BitVec.toNat_zero, Nat.reduceLeDiff]
  omega

/-- Settles O53: each write is one update of the idle block. -/
theorem registerWrites : Obligations.RegisterWrites := by
  intro s v hidle
  have hctrl : perform (.write 0x000 4 v) s = { s with ctrl := Ctrl.ofWord v } :=
    portWrite_idle hidle rfl rfl (by decide) (by decide) (by decide)
  have htxhdr : perform (.write 0x014 4 v) s =
      { s with commandId := byteOf v 0, sensorId := byteOf v 1 } :=
    portWrite_idle hidle rfl rfl (by decide) (by decide) (by decide)
  have hunkcnt : perform (.write 0x018 4 v) s = { s with unkCnt := 0 } :=
    portWrite_idle hidle rfl rfl (by decide) (by decide) (by decide)
  have hsynclim : perform (.write 0x01C 4 v) s = { s with syncLim := v.extractLsb' 0 16 } :=
    portWrite_idle hidle rfl rfl (by decide) (by decide) (by decide)
  exact ⟨⟨_, hctrl, rfl, ctrl_word_ofWord v⟩, ⟨_, htxhdr, rfl, txhdr_word_of_bytes v⟩, hunkcnt,
    ⟨_, hsynclim, rfl, (and_low_half v).symm⟩⟩

/-! ## A word written to a window -/

theorem byteOf_eq (v : Word) (k : Nat) : byteOf v k = BitVec.ofNat 8 (v.toNat / 2 ^ (8 * k)) := by
  apply BitVec.eq_of_toNat_eq
  rw [byteOf, BitVec.extractLsb'_toNat, Nat.shiftRight_eq_div_pow, BitVec.toNat_ofNat]

theorem readByte_of_not_exists {s : State} {a : Nat} (h : byteExists s.params a = false) :
    s.readByte a = 0 := by
  simp [State.readByte, h]

theorem writeWord_params (s : State) (off : Nat) (v : Word) :
    (s.writeWord off v).params = s.params := by
  simp only [State.writeWord, State.writeByte_params]

/-- A word stored changes memory alone. -/
theorem writeWord_eq (s : State) (off : Nat) (v : Word) :
    s.writeWord off v = { s with mem := (s.writeWord off v).mem } := by
  simp only [State.writeWord, State.writeByte]

theorem readByte_writeWord_other (s : State) (off : Nat) (v : Word) (a : Nat)
    (h : ∀ k < 4, a ≠ off + k) : (s.writeWord off v).readByte a = s.readByte a := by
  rw [State.writeWord, readByte_writeByte_other _ _ _ _ (h 3 (by decide)),
    readByte_writeByte_other _ _ _ _ (h 2 (by decide)),
    readByte_writeByte_other _ _ _ _ (h 1 (by decide))]
  exact readByte_writeByte_other _ _ _ _ (h 0 (by decide))

/-- A byte of a word stored reads back where the window has it, and as 0 past its end. -/
theorem readByte_writeWord (s : State) (off : Nat) (v : Word) {k : Nat} (hk : k < 4) :
    (s.writeWord off v).readByte (off + k) =
      if byteExists s.params (off + k) = true then byteOf v k else 0 := by
  split
  · rename_i he
    interval_cases k <;> simp_all [State.writeWord, readByte_writeByte]
  · rename_i he
    apply readByte_of_not_exists
    rwa [writeWord_params, ← Bool.not_eq_true]

/-- The bytes of `TXBUF` and the batches exist, but for one past the end of each batch (R27 to R30). -/
theorem byteExists_window {p : Params} (hp : p.wf = true) {off k : Nat} (hk : k < 4)
    (halign : off % 4 = 0) (hmapped : Mapped off)
    (hwindow : (0x100 ≤ off ∧ off < 0x108) ∨ (0x300 ≤ off ∧ off ≤ 0x470)) :
    byteExists p (off + k) = true ↔ ¬ (off + k = 0x373 ∨ off + k = 0x473) := by
  have hn := nSlaves_le_of_wf hp
  simp only [Mapped] at hmapped
  simp only [byteExists, inRange, Bool.or_eq_true, Bool.and_eq_true, decide_eq_true_eq]
  simp only [txBufBase, rxBufBase, cmdBatchBase, sensBatchBase, registryBase, slaveRecBase, batchBytes]
  omega

theorem mappedWord_iff (off : Nat) : mappedWord off = true ↔ Mapped off := by
  simp only [mappedWord, inRange, Bool.or_eq_true, Bool.and_eq_true, decide_eq_true_eq, Mapped]
  simp only [txBufBase, rxBufBase, cmdBatchBase, sensBatchBase, registryBase, slaveRecBase, batchBytes]
  omega

theorem goodAccess_iff (off : BitVec 12) (width : Nat) :
    goodAccess off width = true ↔ Accepted off width := by
  simp only [goodAccess, Bool.and_eq_true, decide_eq_true_eq, mappedWord_iff, Accepted, and_assoc]

theorem readOnlyWord_iff (off : Nat) : readOnlyWord off = true ↔ ReadOnly off := by
  simp only [readOnlyWord, inRange, Bool.or_eq_true, Bool.and_eq_true, decide_eq_true_eq, ReadOnly]
  simp only [rxBufBase, slaveRecBase]
  omega

/-- An idle block stores an accepted word of `TXBUF` or a batch. -/
theorem portWrite_window {s : State} {off : BitVec 12} (v : Word) (hidle : Idle s)
    (hacc : Accepted off 4)
    (hwindow : (0x100 ≤ off.toNat ∧ off.toNat < 0x108) ∨ (0x300 ≤ off.toNat ∧ off.toNat ≤ 0x470)) :
    s.portWrite off 4 v = s.writeWord off.toNat v := by
  have hro : readOnlyWord off.toNat = false := by
    rw [Bool.eq_false_iff, Ne, readOnlyWord_iff, ReadOnly]
    omega
  have hreg : inRange registryBase 96 off.toNat = false := by
    rw [inRange, Bool.and_eq_false_iff, decide_eq_false_iff_not, decide_eq_false_iff_not, registryBase]
    omega
  have hne : ∀ r : BitVec 12, r.toNat < 0x100 → off ≠ r := by
    rintro r hr rfl
    omega
  rw [portWrite_idle hidle ((goodAccess_iff _ _).2 hacc) hro (hne _ (by decide)) (hne _ (by decide))
    (hne _ (by decide)), State.writeIdle, if_neg (by omega), if_neg (by omega), if_neg (by omega),
    if_neg (by omega), hreg, if_neg Bool.false_ne_true]

/-- Settles O54: the write is one stored word. -/
theorem windowWrites : Obligations.WindowWrites := by
  intro s off v hidle hwf hacc hwindow
  have ⟨_, halign, hmapped⟩ := hacc
  refine ⟨_, portWrite_window v hidle hacc hwindow, writeWord_eq s off.toNat v, fun k hk => ?_,
    readByte_writeWord_other s off.toNat v⟩
  rw [readByte_writeWord s off.toNat v hk, byteOf_eq]
  simp only [byteExists_window hwf hk halign hmapped hwindow, ite_not]

end Sys2Proof.Proofs
end

section
/-! SUPPORT. A host byte and a step of the sequencer commute unless the step waits for one (20_memory.md
R57, R58; 60_exceptions.md R150): a step takes the oldest byte of `RX`, and the host appends the youngest. -/

namespace Sys2Proof.Proofs

open Sys2Proof.Machine Sys2Proof.Safety

/-- What a step does, with a byte sent by the host after it. -/
def sendAfter (b : Byte) : Progress → Progress
  | .go s loc more => .go (s.hostSend b) loc more
  | .waits => .waits
  | .stops s => .stops (s.hostSend b)

section
variable (b : Byte) (loc : Locals) (s : State)

/-! ## The named updates that branch -/

theorem record_hostSend (k : ErrorKind) (info : Half) :
    (s.hostSend b).record k info = (s.record k info).hostSend b := rfl

theorem raiseError_hostSend (k : ErrorKind) (info : Half) :
    (s.hostSend b).raiseError k info loc = (s.raiseError k info loc).hostSend b := by
  have hopen : ((s.hostSend b).record k info).isOpen = (s.record k info).isOpen := rfl
  simp only [State.raiseError, hopen]
  split <;> rfl

theorem writeHalf_hostSend (off : Nat) (v : Half) :
    (s.hostSend b).writeHalf off v = (s.writeHalf off v).hostSend b := rfl

theorem updateRecord_hostSend (i : Nat) (c d : Byte) (v : Half) (r : List Byte) :
    (s.hostSend b).updateRecord i c d v r = (s.updateRecord i c d v r).hostSend b := by
  by_cases hc : c = 1 <;>
    simp only [State.updateRecord, hc, if_true, if_false, writeHalf_hostSend,
      apply_ite (State.hostSend b)]

/-! ## The steps -/

theorem takeByte_hostSend (k : Byte → State → Progress)
    (hk : ∀ c t, k c (t.hostSend b) = sendAfter b (k c t)) (hrx : s.rx ≠ []) :
    (s.hostSend b).takeByte k = sendAfter b (s.takeByte k) := by
  obtain ⟨c, rest, hcons⟩ := List.exists_cons_of_ne_nil hrx
  simp only [State.takeByte, State.hostSend_rx, hcons, List.cons_append]
  exact hk c { s with rx := rest }

theorem searchStep_hostSend (c : Byte) :
    searchStep loc c (s.hostSend b) = sendAfter b (searchStep loc c s) := by
  have hshift : (s.hostSend b).shiftWindow c = (s.shiftWindow c).hostSend b := rfl
  have hseen (t : State) : (t.hostSend b).markerSeen = t.markerSeen := rfl
  have hspent (t : State) (n : Nat) : (t.hostSend b).searchSpent n = t.searchSpent n := rfl
  simp only [searchStep, hshift, hseen, hspent, raiseError_hostSend]
  split
  · rfl
  · split <;> rfl

theorem countStep_hostSend (c : Byte) :
    countStep loc c (s.hostSend b) = sendAfter b (countStep loc c s) := by
  simp only [countStep, raiseError_hostSend, State.hostSend_ctrl]
  split <;> rfl

theorem trailerStep_hostSend (c t : Byte) :
    trailerStep c loc t (s.hostSend b) = sendAfter b (trailerStep c loc t s) := by
  have htrailer (base n : Nat) : (s.hostSend b).trailerOf base n = s.trailerOf base n := rfl
  simp only [trailerStep, htrailer, record_hostSend, raiseError_hostSend, State.hostSend_ctrl]
  split
  · rfl
  · split <;> rfl

theorem appendStep_hostSend (id : Byte) (v : Half) :
    appendStep id v loc (s.hostSend b) = sendAfter b (appendStep id v loc s) := by
  have hcount (base : Nat) : (s.hostSend b).batchCount base = s.batchCount base := rfl
  simp only [appendStep, hcount, record_hostSend]
  split <;> rfl

theorem exchangeStep_hostSend (out : Byte) (dest : Dest) :
    exchangeStep out dest loc (s.hostSend b) = sendAfter b (exchangeStep out dest loc s) := by
  cases dest <;> rfl

/-- A step that does not wait does the same with a byte more at the end of `RX`, and leaves it there. -/
theorem stepMicro_hostSend (m : Micro) (h : m.takesByte = true → s.rx ≠ []) :
    stepMicro m loc (s.hostSend b) = sendAfter b (stepMicro m loc s) := by
  cases m with
  | searchByte => exact takeByte_hostSend b s _ (fun c t => searchStep_hostSend b loc t c) (h rfl)
  | takeCount => exact takeByte_hostSend b s _ (fun c t => countStep_hostSend b loc t c) (h rfl)
  | takeInto off =>
    exact takeByte_hostSend b s (fun c t => .go (t.writeByte off c) loc []) (fun _ _ => rfl) (h rfl)
  | takeTrailer c => exact takeByte_hostSend b s _ (fun t u => trailerStep_hostSend b loc u c t) (h rfl)
  | exchange out dest => exact exchangeStep_hostSend b loc s out dest
  | updateRecord i c d v =>
    exact congrArg (Progress.go · loc []) (updateRecord_hostSend b s i c d v loc.replies)
  | append id v => exact appendStep_hostSend b loc s id v
  | appendReply id => exact appendStep_hostSend b _ s id _
  | raise k info => exact congrArg Progress.stops (raiseError_hostSend b loc s k info)
  | setMux | settle | assertCs | raiseCs | releaseCs | sampleAdc | poke | keepReplies | countUnknown
  | startSearch | transmit | result | resultReply8 | resultReply16 | resultTxn | resultSwap
  | resultSearch | keepBatch | setDac | flag => rfl

/-! ## The sequencer -/

theorem tick_hostSend (h : s.quiescent = false) : tick (s.hostSend b) = (tick s).hostSend b := by
  simp only [State.quiescent, State.busy, State.waiting] at h
  cases hseq : s.seq with
  | idle => simp [hseq] at h
  | running r =>
    cases htodo : r.todo with
    | nil =>
      simp only [tick, State.hostSend_seq, hseq, htodo]
      rfl
    | cons m rest =>
      have hm : m.takesByte = true → s.rx ≠ [] := by simpa [hseq, htodo] using h
      simp only [tick, State.hostSend_seq, hseq, htodo, stepMicro_hostSend b r.loc s m hm]
      cases stepMicro m r.loc s <;> rfl

/-- A byte sent before or after one step of the sequencer comes to the same once it has run. -/
theorem drain_hostSend_tick : drain ((tick s).hostSend b) = drain (s.hostSend b) := by
  cases h : s.quiescent with
  | true => rw [tick_quiescent s h]
  | false => rw [← tick_hostSend b s h, drain_tick]

theorem drain_hostSend_iterate (n : Nat) :
    drain ((tick^[n] s).hostSend b) = drain (s.hostSend b) := by
  induction n generalizing s with
  | zero => rfl
  | succ n ih => rw [Function.iterate_succ_apply, ih, drain_hostSend_tick]

end

/-- Settles O14: the sequencer waits a number of its own steps away, and the byte passes each of them. -/
theorem hostBytesMayComeLate : Obligations.HostBytesMayComeLate := by
  intro s b
  obtain ⟨n, hn⟩ := drain_is_iterate s
  rw [hn, drain_hostSend_iterate]

end Sys2Proof.Proofs
end

section
/-! SUPPORT. The host's ends of the two streams (20_memory.md R58, R59), the accesses the register port
refuses, what a read returns (R43 to R47), and a wait that times out (R57; 60_exceptions.md R149). -/

namespace Sys2Proof.Proofs

open Sys2Proof.Machine Sys2Proof.Safety

/-! ## The moves of the host -/

theorem hostTake_of_empty {s : State} (h : s.tx = []) : s.hostTake = s := by
  have htail : s.tx.tail = s.tx := by rw [h, List.tail_nil]
  rw [State.hostTake, htail]

/-- Settles O47: each move is one update of a stream, or of the time. -/
theorem hostMoves : Obligations.HostMoves := by
  refine fun s => ⟨fun _ => rfl, fun b rest htx => ?_, hostTake_of_empty, fun _ => rfl⟩
  show s.hostTake = _
  rw [State.hostTake, htx, List.tail_cons]

/-! ## Refused accesses -/

theorem goodAccess_eq_false {off : BitVec 12} {width : Nat} (h : ¬ Accepted off width) :
    goodAccess off width = false := by
  rwa [Bool.eq_false_iff, Ne, goodAccess_iff]

theorem readOnlyWord_eq_false {off : Nat} (h : ¬ ReadOnly off) : readOnlyWord off = false := by
  rwa [Bool.eq_false_iff, Ne, readOnlyWord_iff]

theorem portRead_refused (s : State) {off : BitVec 12} {width : Nat} (h : ¬ Accepted off width) :
    s.portRead off width = { s.record .addr (off.setWidth 16) with readData := 0 } := by
  rw [State.portRead, goodAccess_eq_false h, if_neg Bool.false_ne_true]

theorem portWrite_refused (s : State) {off : BitVec 12} {width : Nat} (v : Word)
    (h : ¬ Accepted off width ∨ ReadOnly off.toNat) :
    s.portWrite off width v = s.record .addr (off.setWidth 16) := by
  have hrefused : (goodAccess off width && !readOnlyWord off.toNat) = false := by
    rw [Bool.and_eq_false_iff, Bool.not_eq_false']
    exact h.imp goodAccess_eq_false (readOnlyWord_iff off.toNat).2
  rw [State.portWrite, hrefused, if_neg Bool.false_ne_true]

/-- Settles O48: the port records `E_ADDR`, whose code is 12 and whose mask is bit 11 of `KIND`. -/
theorem refusedAccesses : Obligations.RefusedAccesses := fun s _ _ v =>
  ⟨fun h => portRead_refused s h, fun h => portWrite_refused s v h⟩

/-! ## Accepted writes while an operation runs -/

theorem portWrite_busy {s : State} {off : BitVec 12} (v : Word) (hbusy : s.busy = true)
    (hacc : Accepted off 4) (hro : ¬ ReadOnly off.toNat) (hstatus : off ≠ 0x004) (herr : off ≠ 0x008)
    (hcmd : off ≠ 0x00C) : s.portWrite off 4 v = s.record .busy (off.setWidth 16) := by
  rw [State.portWrite, (goodAccess_iff off 4).2 hacc, readOnlyWord_eq_false hro, if_pos (by rfl),
    if_neg hcmd, if_neg hstatus, if_neg herr, if_pos hbusy]

/-- Settles O49: the port records `E_BUSY`, whose code is 9 and whose mask is bit 8 of `KIND`. -/
theorem writesWhileBusy : Obligations.WritesWhileBusy := fun _ _ v hbusy hacc hro hstatus herr hcmd =>
  portWrite_busy v hbusy hacc hro hstatus herr hcmd

/-! ## Accepted reads -/

theorem portRead_accepted (s : State) {off : BitVec 12} (hacc : Accepted off 4) :
    s.portRead off 4 = if s.freeRead off.toNat
      then { s with readData := s.draws.head, draws := s.draws.tail }
      else { s with readData := s.registerWord off.toNat } := by
  rw [State.portRead, if_pos ((goodAccess_iff off 4).2 hacc)]

theorem freeRead_of_idle {s : State} (h : Idle s) (off : Nat) : s.freeRead off = false := by
  have hseq : s.seq = .idle := h
  rw [State.freeRead, hseq]

theorem freeRead_of_running {s : State} {r : Running} (h : s.seq = .running r) (off : Nat) :
    s.freeRead off = freeWhile r.op off := by
  rw [State.freeRead, h]

theorem writesRxBuf_iff (i : Instr) : writesRxBuf i = true ↔
    (∃ n, i = .xfern n) ∨ (∃ a, i = .srd8 a) ∨ (∃ a b, i = .srw8 a b) ∨ (∃ a, i = .srd16 a) ∨
      (∃ a w, i = .srw16 a w) ∨ (∃ a n, i = .srdn a n) ∨ (∃ a n, i = .srwn a n) ∨
      (∃ a v, i = .txn a v) ∨ i = .swap := by
  constructor
  · intro h
    cases i with
    | xfern n => exact .inl ⟨n, rfl⟩
    | srd8 a => exact .inr (.inl ⟨a, rfl⟩)
    | srw8 a b => exact .inr (.inr (.inl ⟨a, b, rfl⟩))
    | srd16 a => exact .inr (.inr (.inr (.inl ⟨a, rfl⟩)))
    | srw16 a w => exact .inr (.inr (.inr (.inr (.inl ⟨a, w, rfl⟩))))
    | srdn a n => exact .inr (.inr (.inr (.inr (.inr (.inl ⟨a, n, rfl⟩)))))
    | srwn a n => exact .inr (.inr (.inr (.inr (.inr (.inr (.inl ⟨a, n, rfl⟩))))))
    | txn a v => exact .inr (.inr (.inr (.inr (.inr (.inr (.inr (.inl ⟨a, v, rfl⟩)))))))
    | swap => exact .inr (.inr (.inr (.inr (.inr (.inr (.inr (.inr rfl)))))))
    | _ => exact absurd h Bool.false_ne_true
  · rintro (⟨_, rfl⟩ | ⟨_, rfl⟩ | ⟨_, _, rfl⟩ | ⟨_, rfl⟩ | ⟨_, _, rfl⟩ | ⟨_, _, rfl⟩ | ⟨_, _, rfl⟩ |
      ⟨_, _, rfl⟩ | rfl) <;> rfl

theorem writesSlaveRec_iff (i : Instr) :
    writesSlaveRec i = true ↔ (∃ a v, i = .txn a v) ∨ i = .swap := by
  constructor
  · intro h
    cases i with
    | txn a v => exact .inl ⟨a, v, rfl⟩
    | swap => exact .inr rfl
    | _ => exact absurd h Bool.false_ne_true
  · rintro (⟨_, _, rfl⟩ | rfl) <;> rfl

theorem writesCmdBatch_iff (i : Instr) :
    writesCmdBatch i = true ↔ i = .rdbatch ∨ ∃ k, i = .clrbatch k := by
  constructor
  · intro h
    cases i with
    | rdbatch => exact .inl rfl
    | clrbatch k => exact .inr ⟨k, rfl⟩
    | _ => exact absurd h Bool.false_ne_true
  · rintro (rfl | ⟨_, rfl⟩) <;> rfl

theorem writesSensBatch_iff (i : Instr) :
    writesSensBatch i = true ↔ i = .swap ∨ (∃ id v, i = .putrec id v) ∨ ∃ k, i = .clrbatch k := by
  constructor
  · intro h
    cases i with
    | swap => exact .inl rfl
    | putrec id v => exact .inr (.inl ⟨id, v, rfl⟩)
    | clrbatch k => exact .inr (.inr ⟨k, rfl⟩)
    | _ => exact absurd h Bool.false_ne_true
  · rintro (rfl | ⟨_, _, rfl⟩ | ⟨_, rfl⟩) <;> rfl

/-- The last word of a batch reaches one byte past it; no aligned word starts there. -/
theorem inRange_batch_word {base off : Nat} (hbase : base % 4 = 0) (halign : off % 4 = 0) :
    inRange base 116 off = true ↔ base ≤ off ∧ off ≤ base + 114 := by
  simp only [inRange, Bool.and_eq_true, decide_eq_true_eq]
  omega

theorem inRange_rows {base off : Nat} :
    inRange base 192 off = true ↔ base ≤ off ∧ off ≤ base + 0xBF := by
  simp only [inRange, Bool.and_eq_true, decide_eq_true_eq]
  omega

/-- At an aligned offset, the reads that return a draw are those of R47 (log 15, log 28). -/
theorem freeWhile_iff (i : Instr) {off : Nat} (halign : off % 4 = 0) : freeWhile i off = true ↔
    off = 0x010 ∨ off = 0x018 ∨ off = 0x020 ∨ WritesWindow i off := by
  simp only [freeWhile, Bool.or_eq_true, Bool.and_eq_true, decide_eq_true_eq, inRange_rows,
    inRange_batch_word (show cmdBatchBase % 4 = 0 from rfl) halign,
    inRange_batch_word (show sensBatchBase % 4 = 0 from rfl) halign, writesRxBuf_iff,
    writesSlaveRec_iff, writesCmdBatch_iff, writesSensBatch_iff]
  simp only [WritesWindow, rxBufBase, slaveRecBase, cmdBatchBase, sensBatchBase, Nat.reduceAdd]
  exact iff_of_eq (by ac_rfl)

/-- Settles O50: the port asks `freeWhile` of the running operation. -/
theorem readsWhileBusy : Obligations.ReadsWhileBusy := by
  intro s r off hr hacc
  have ⟨_, halign, _⟩ := hacc
  have hfree : s.freeRead off.toNat = true ↔
      off = 0x010 ∨ off = 0x018 ∨ off = 0x020 ∨ WritesWindow r.op off.toNat := by
    rw [freeRead_of_running hr, freeWhile_iff r.op halign]
    simp only [← BitVec.toNat_inj, BitVec.reduceToNat]
  refine ⟨fun h => (portRead_accepted s hacc).trans (if_pos (hfree.2 h)), ?_⟩
  intro hresult hunkcnt hdac hwindow
  refine (portRead_accepted s hacc).trans (if_neg fun h => ?_)
  rcases hfree.1 h with h | h | h | h
  exacts [hresult h, hunkcnt h, hdac h, hwindow h]

/-- Past the registers, a word is read from a window. -/
theorem registerWord_window (s : State) {off : Nat} (h : 0x028 < off) :
    s.registerWord off = s.readWord off := by
  rw [State.registerWord] <;> omega

/-- A word of a window, low byte at the lower offset (R43). -/
theorem readWord_toNat (s : State) (off : Nat) : (s.readWord off).toNat =
    (s.readByte off).toNat + 2 ^ 8 * (s.readByte (off + 1)).toNat +
      2 ^ 16 * (s.readByte (off + 2)).toNat + 2 ^ 24 * (s.readByte (off + 3)).toNat := by
  simp only [State.readWord, wordOf, toNat_append_eq_add]
  omega

/-- Settles O51: an idle block's reads return no draw. -/
theorem readsWhileIdle : Obligations.ReadsWhileIdle := by
  intro s off hidle hacc
  have hfree : ¬ s.freeRead off.toNat = true := by
    rw [freeRead_of_idle hidle]
    exact Bool.false_ne_true
  refine ⟨(portRead_accepted s hacc).trans (if_neg hfree), fun hwindow => ?_⟩
  rw [registerWord_window s hwindow, readWord_toNat]

/-! ## A wait that times out -/

theorem running_of_waiting {s : State} (h : s.waiting = true) : ∃ r, s.seq = .running r := by
  cases hseq : s.seq with
  | idle => simp [State.waiting, hseq] at h
  | running r => exact ⟨r, rfl⟩

/-- Only a wait for a host byte times out, and only with `RX_TMO_EN` set. -/
theorem timeOut_of_running {s : State} {r : Running} (hr : s.seq = .running r) :
    s.timeOut = if s.waiting && s.ctrl.rxTmoEn then s.raiseError .timeout 0 r.loc else s := by
  rw [State.timeOut, hr]

/-- A raise leaves a bracket alone that the operation did not open (R149). -/
theorem raiseError_of_not_own {s : State} {loc : Locals} (k : ErrorKind) (info : Half)
    (h : s.bracket = .closed ∨ loc.ownBracket = false) :
    s.raiseError k info loc = (s.record k info).finish := by
  have hkeep : (loc.ownBracket && (s.record k info).isOpen) = false := by
    rw [isOpen_eq, Bool.and_eq_false_iff, decide_eq_false_iff_not, not_not]
    exact h.symm
  simp only [State.raiseError, hkeep, Bool.false_eq_true, if_false]

/-- Settles O58: a timeout in a wait raises `E_TIMEOUT`, and is nothing at another time. -/
theorem receiveTimeout : Obligations.ReceiveTimeout := by
  intro s
  constructor
  · intro hwait htmo hown
    obtain ⟨r, hr⟩ := running_of_waiting hwait
    show s.timeOut = _
    rw [timeOut_of_running hr, hwait, htmo, if_pos (by rfl),
      raiseError_of_not_own _ _ (hown.imp_right fun h => h r hr)]
    rfl
  · intro h
    show s.timeOut = s
    cases hseq : s.seq with
    | idle => rw [State.timeOut, hseq]
    | running r => rw [timeOut_of_running hseq, Bool.and_eq_false_iff.2 h, if_neg Bool.false_ne_true]

end Sys2Proof.Proofs
end

section
/-! SUPPORT. The operation word as its three fields (30_encoding.md R60), and the one fact that the round
trips and the ignored bits come from (R61 to R63): a word decodes to an operation exactly when the
operation is well formed and its encoding is the used bits of the word. -/

namespace Sys2Proof.Proofs

open Sys2Proof.Machine Sys2Proof.Safety Sys2Proof.Laws

/-! ## The fields of a word -/

theorem append_inj_iff {m n : Nat} (x x' : BitVec m) (y y' : BitVec n) :
    x ++ y = x' ++ y' ↔ x = x' ∧ y = y' := by
  refine ⟨fun h => ⟨?_, ?_⟩, fun ⟨hx, hy⟩ => by rw [hx, hy]⟩
  · simpa only [BitVec.extractLsb'_append_eq_left] using congrArg (BitVec.extractLsb' n m) h
  · simpa only [BitVec.extractLsb'_append_eq_right] using congrArg (BitVec.extractLsb' 0 n) h

theorem opWord_inj_iff (op op' a a' : Byte) (b b' : Half) :
    opWord op a b = opWord op' a' b' ↔ op = op' ∧ a = a' ∧ b = b' := by
  rw [opWord, opWord, append_inj_iff, append_inj_iff, and_assoc]

/-- A word is its three fields. -/
theorem opWord_fields (w : Word) : opWord (fieldOp w) (fieldA w) (fieldB w) = w := by
  have hhigh : fieldOp w ++ fieldA w = w.extractLsb' 16 16 :=
    BitVec.extractLsb'_append_extractLsb'_eq_extractLsb' rfl
  rw [opWord, hhigh]
  exact BitVec.extractLsb'_append_extractLsb'

/-- A word masked by a row's used bits, field by field. -/
theorem and_opWord (w : Word) (ma : Byte) (mb : Half) :
    w &&& opWord 0xFF ma mb = opWord (fieldOp w) (fieldA w &&& ma) (fieldB w &&& mb) := by
  have hop : fieldOp w &&& 0xFF = fieldOp w := BitVec.and_allOnes
  conv_lhs => rw [← opWord_fields w]
  rw [opWord, opWord, BitVec.and_append, BitVec.and_append, hop, opWord]

theorem fieldOp_toNat (w : Word) : (fieldOp w).toNat = w.toNat / 2 ^ 24 := by
  have := w.isLt
  rw [fieldOp, BitVec.extractLsb'_toNat, Nat.shiftRight_eq_div_pow]
  omega

/-! ## The operand forms of R62 -/

/-- `B[7:0]` is used: the rest of `B` is masked. -/
theorem lowByte_eq_and_iff (w : Word) (q : Byte) :
    q.setWidth 16 = fieldB w &&& 0x00FF ↔ fieldBLow w = q := by
  have hlow : (fieldBLow w).setWidth 16 = fieldB w &&& 0x00FF := by
    apply BitVec.eq_of_toNat_eq
    rw [BitVec.toNat_and, BitVec.toNat_setWidth, fieldBLow, fieldB, BitVec.extractLsb'_toNat,
      BitVec.extractLsb'_toNat, Nat.shiftRight_zero]
    refine Eq.trans ?_ (Nat.and_two_pow_sub_one_eq_mod _ 8).symm
    omega
  rw [← hlow, eq_comm]
  refine ⟨fun h => ?_, fun h => congrArg _ h⟩
  simpa using congrArg (BitVec.setWidth 8) h

/-- `B[3:0]` is used, as a count: the rest of `B` is masked. -/
theorem count_eq_and_iff (w : Word) {n : Nat} (hn : fitsCount n = true) :
    BitVec.ofNat 16 n = fieldB w &&& 0x000F ↔ fieldCount w = n := by
  have hcount : fieldCount w = (fieldB w &&& 0x000F).toNat := by
    rw [BitVec.toNat_and, fieldCount, fieldB, BitVec.extractLsb'_toNat, BitVec.extractLsb'_toNat,
      Nat.shiftRight_zero]
    refine Eq.trans ?_ (Nat.and_two_pow_sub_one_eq_mod _ 4).symm
    omega
  have hlt : n < 16 := of_decide_eq_true hn
  rw [hcount, ← BitVec.toNat_inj, BitVec.toNat_ofNat, Nat.mod_eq_of_lt (by omega), eq_comm]

/-- A number in `A`. -/
theorem number_eq_fieldA_iff (w : Word) {n : Nat} (hn : fitsA n = true) :
    BitVec.ofNat 8 n = fieldA w ↔ (fieldA w).toNat = n := by
  have hlt : n < 256 := of_decide_eq_true hn
  rw [← BitVec.toNat_inj, BitVec.toNat_ofNat, Nat.mod_eq_of_lt hlt, eq_comm]

theorem and_byte_full (a : Byte) : a &&& 0xFF = a := BitVec.and_allOnes

theorem and_half_full (b : Half) : b &&& 0xFFFF = b := BitVec.and_allOnes

theorem fitsA_toNat (a : Byte) : fitsA a.toNat = true := decide_eq_true a.isLt

theorem fitsCount_fieldCount (w : Word) : fitsCount (fieldCount w) = true :=
  decide_eq_true (BitVec.isLt _)

/-! ## Decoding by opcode -/

/-- The decoder rejects the opcodes that R63 lists and no others; any other opcode gives a well-formed
operation of its own row. -/
theorem decode_cases (w : Word) :
    (IllegalOp (fieldOp w).toNat ∧ decode w = .error (.illegal (fieldOp w))) ∨
      ¬ IllegalOp (fieldOp w).toNat ∧
        ∃ i, decode w = .ok i ∧ i.wellFormed = true ∧ fieldOp w = Encoding.opcode i := by
  have hlt := (fieldOp w).isLt
  unfold decode decodeAs
  split
  case h_41 =>
    refine .inl ⟨?_, rfl⟩
    simp only [imp_false] at *
    unfold IllegalOp
    omega
  all_goals
    rename_i hop
    refine .inr ⟨by simp [hop, IllegalOp], _, rfl, ?_, BitVec.eq_of_toNat_eq hop⟩
    simp only [Instr.wellFormed, fitsA_toNat, fitsCount_fieldCount]

/-- The row of an operation: its encoding is a word's used bits exactly when the fields the row uses are
the operands. -/
theorem encode_eq_and_iff {i : Instr} {a ma : Byte} {b mb : Half}
    (he : encode i = opWord (Encoding.opcode i) a b) (hu : usedBits i = opWord 0xFF ma mb) (w : Word) :
    encode i = w &&& usedBits i ↔
      Encoding.opcode i = fieldOp w ∧ a = fieldA w &&& ma ∧ b = fieldB w &&& mb := by
  rw [he, hu, and_opWord, opWord_inj_iff]

/-- An operation of the word's opcode is the word's operation exactly when the used bits are its
encoding: the split is by the operand form of the row. -/
theorem decode_eq_ok_iff_of_opcode {i : Instr} (hwf : i.wellFormed = true) {w : Word}
    (hop : fieldOp w = Encoding.opcode i) : decode w = .ok i ↔ encode i = w &&& usedBits i := by
  rw [decode, hop]
  cases i with
  | nop | srst | endBracket | swap | mirror | sync | rdbatch | wrbatch | cksumtx =>
    rw [encode_eq_and_iff (a := 0) (ma := 0) (b := 0) (mb := 0) rfl rfl]
    simp [Encoding.opcode, decodeAs, hop]
  | bfu16 v | u10to16 v | u16to10 v | u10to12 v | u12to10 v | u12to16 v | u16to12 v | clamp12 v | adc2v v
  | dacwr v | xfer16 v =>
    rw [encode_eq_and_iff (a := 0) (ma := 0) (b := v) (mb := 0xFFFF) rfl rfl, and_half_full]
    simp [Encoding.opcode, decodeAs, hop, eq_comm]
  | lkmus a | lkslv a | xfer8 a | srd8 a | srd16 a =>
    rw [encode_eq_and_iff (a := a) (ma := 0xFF) (b := 0) (mb := 0) rfl rfl, and_byte_full]
    simp [Encoding.opcode, decodeAs, hop, eq_comm]
  | muxsel n | adcsample n | beginBracket n | clrbatch n =>
    rw [encode_eq_and_iff (a := BitVec.ofNat 8 n) (ma := 0xFF) (b := 0) (mb := 0) rfl rfl,
      and_byte_full, number_eq_fieldA_iff w hwf]
    simp [Encoding.opcode, decodeAs, hop]
  | xfern n =>
    rw [encode_eq_and_iff (a := 0) (ma := 0) (b := BitVec.ofNat 16 n) (mb := 0x000F) rfl rfl,
      count_eq_and_iff w hwf]
    simp [Encoding.opcode, decodeAs, hop]
  | u16fb a q | swr8 a q | srw8 a q =>
    rw [encode_eq_and_iff (a := a) (ma := 0xFF) (b := q.setWidth 16) (mb := 0x00FF) rfl rfl,
      and_byte_full, lowByte_eq_and_iff]
    simp [Encoding.opcode, decodeAs, hop, eq_comm]
  | swr16 a v | srw16 a v | txn a v | putrec a v =>
    rw [encode_eq_and_iff (a := a) (ma := 0xFF) (b := v) (mb := 0xFFFF) rfl rfl, and_byte_full,
      and_half_full]
    simp [Encoding.opcode, decodeAs, hop, eq_comm]
  | swrn a n | srdn a n | srwn a n =>
    rw [encode_eq_and_iff (a := a) (ma := 0xFF) (b := BitVec.ofNat 16 n) (mb := 0x000F) rfl rfl,
      and_byte_full, count_eq_and_iff w hwf]
    simp [Encoding.opcode, decodeAs, hop, eq_comm]

theorem decode_of_illegal {w : Word} (h : IllegalOp (fieldOp w).toNat) :
    decode w = .error (.illegal (fieldOp w)) := by
  rcases decode_cases w with ⟨-, herr⟩ | ⟨hlegal, -⟩
  · exact herr
  · exact absurd h hlegal

theorem decode_of_legal {w : Word} (h : ¬ IllegalOp (fieldOp w).toNat) :
    ∃ i, decode w = .ok i := by
  rcases decode_cases w with ⟨hillegal, -⟩ | ⟨-, i, hi, -⟩
  · exact absurd hillegal h
  · exact ⟨i, hi⟩

theorem row_of_decode {w : Word} {i : Instr} (h : decode w = .ok i) :
    i.wellFormed = true ∧ fieldOp w = Encoding.opcode i := by
  rcases decode_cases w with ⟨-, herr⟩ | ⟨-, j, hj, hrow⟩
  · rw [herr] at h
    cases h
  · rw [hj] at h
    cases h
    exact hrow

/-! ## The used bits -/

theorem fieldOp_usedBits (i : Instr) : fieldOp (usedBits i) = 0xFF := by
  cases i <;> simp [usedBits, fieldOp]

theorem fieldOp_and_usedBits (w : Word) (i : Instr) : fieldOp (w &&& usedBits i) = fieldOp w := by
  have hand : fieldOp (w &&& usedBits i) = fieldOp w &&& fieldOp (usedBits i) :=
    BitVec.extractLsb'_and
  rw [hand, fieldOp_usedBits, and_byte_full]

/-- The laws of the forty rows, as one. -/
theorem encode_fits_row (i : Instr) : Encoding.Statement i := by
  cases i
  exacts [Encoding.nop, Encoding.srst, Encoding.u16fb _ _, Encoding.bfu16 _, Encoding.u10to16 _,
    Encoding.u16to10 _, Encoding.u10to12 _, Encoding.u12to10 _, Encoding.u12to16 _,
    Encoding.u16to12 _, Encoding.clamp12 _, Encoding.adc2v _, Encoding.dacwr _, Encoding.muxsel _,
    Encoding.adcsample _, Encoding.lkmus _, Encoding.lkslv _, Encoding.beginBracket _,
    Encoding.endBracket, Encoding.xfer8 _, Encoding.xfer16 _, Encoding.xfern _, Encoding.swr8 _ _,
    Encoding.srd8 _, Encoding.srw8 _ _, Encoding.swr16 _ _, Encoding.srd16 _, Encoding.srw16 _ _,
    Encoding.swrn _ _, Encoding.srdn _ _, Encoding.srwn _ _, Encoding.txn _ _, Encoding.swap,
    Encoding.mirror, Encoding.sync, Encoding.rdbatch, Encoding.wrbatch, Encoding.cksumtx,
    Encoding.clrbatch _, Encoding.putrec _ _]

theorem fieldOp_encode {i : Instr} (hwf : i.wellFormed = true) :
    fieldOp (encode i) = Encoding.opcode i :=
  (encode_fits_row i hwf).1

theorem encode_and_usedBits {i : Instr} (hwf : i.wellFormed = true) :
    encode i &&& usedBits i = encode i := by
  have hunused : encode i &&& ~~~usedBits i = 0#32 := (encode_fits_row i hwf).2
  calc encode i &&& usedBits i
      = (encode i &&& usedBits i) ||| (encode i &&& ~~~usedBits i) := by
        rw [hunused, BitVec.or_zero]
    _ = encode i := by
        rw [← BitVec.and_or_distrib_left, BitVec.or_not_self, BitVec.and_allOnes]

/-- R61 to R63: the decoder and the encoder are one table. -/
theorem decode_eq_ok_iff (w : Word) (i : Instr) :
    decode w = .ok i ↔ i.wellFormed = true ∧ encode i = w &&& usedBits i := by
  constructor
  · intro h
    obtain ⟨hwf, hop⟩ := row_of_decode h
    exact ⟨hwf, (decode_eq_ok_iff_of_opcode hwf hop).1 h⟩
  · rintro ⟨hwf, he⟩
    have hop : fieldOp w = Encoding.opcode i := by
      rw [← fieldOp_encode hwf, he, fieldOp_and_usedBits]
    exact (decode_eq_ok_iff_of_opcode hwf hop).2 he

/-! ## The round trips -/

theorem decode_encode {i : Instr} (hwf : i.wellFormed = true) : decode (encode i) = .ok i :=
  (decode_eq_ok_iff _ i).2 ⟨hwf, (encode_and_usedBits hwf).symm⟩

/-- Settles O1: the encoding holds used bits only. -/
theorem encodeThenDecode : Obligations.EncodeThenDecode := fun _ hwf => decode_encode hwf

/-- Settles O2: one direction of `decode_eq_ok_iff`. -/
theorem decodeThenEncode : Obligations.DecodeThenEncode := fun w i => (decode_eq_ok_iff w i).1

/-- Settles O3: both words have the encoding as their used bits. -/
theorem unusedBitsAreIgnored : Obligations.UnusedBitsAreIgnored := by
  intro w w' i hdecode hagree
  obtain ⟨hwf, he⟩ := (decode_eq_ok_iff w i).1 hdecode
  exact (decode_eq_ok_iff w' i).2 ⟨hwf, he.trans hagree⟩

/-- Settles O5: each word is the encoding of its operation. -/
theorem sampleWords : Obligations.SampleWords :=
  ⟨decode_encode (i := .nop) rfl, decode_encode (i := .u16fb 0x34 0x12) rfl,
    decode_encode (i := .muxsel 45) rfl, decode_encode (i := .lkmus 40) rfl,
    decode_encode (i := .beginBracket 2) rfl, decode_encode (i := .swrn 255 4) rfl,
    decode_encode (i := .txn 1 0x0200) rfl, decode_encode (i := .swap) rfl,
    decode_encode (i := .putrec 7 20) rfl⟩

end Sys2Proof.Proofs
end

section
/-! SUPPORT. A move of the queue (log 1), the `CMD` write and the operation line (30_encoding.md R73;
60_exceptions.md R147, R148), for the words that decode and for those that R63 lists as illegal. -/

namespace Sys2Proof.Proofs

open Sys2Proof.Machine Sys2Proof.Safety Sys2Proof.Laws

/-! ## The next move -/

theorem dropMove_of_cons {s : State} {m : Move} {rest : List Move} (h : s.moves = m :: rest) :
    s.dropMove = { s with moves := rest } := by
  rw [State.dropMove, h, List.tail_cons]

theorem step_issue {s : State} {w : Word} {rest : List Move} (h : s.moves = .issue w :: rest)
    {i : Instr} (hi : decode w = .ok i) : step s = exec i { s with moves := rest } := by
  rw [← dropMove_of_cons h]
  simp only [step, h, hi]

theorem step_issue_illegal {s : State} {w : Word} {rest : List Move}
    (h : s.moves = .issue w :: rest) (hw : IllegalOp (fieldOp w).toNat) :
    step s = .next (issueIllegal (fieldOp w) { s with moves := rest }) := by
  rw [← dropMove_of_cons h]
  simp only [step, h, decode_of_illegal hw]

theorem step_perform {s : State} {m : Move} {rest : List Move} (h : s.moves = m :: rest)
    (hm : ∀ w, m ≠ .issue w) : step s = .next (perform m { s with moves := rest }) := by
  rw [← dropMove_of_cons h]
  cases m with
  | issue w => exact absurd rfl (hm w)
  | write | read | wait | tick | hostSend | hostTake | timeout | elapse | powerOn =>
    simp only [step, h]

theorem step_nil {s : State} (h : s.moves = []) : step s = .next (tick s) := by
  simp only [step, h]

/-- The word of the operation line put in front of the moves is the word given. -/
theorem withFetchWord_moves (s : State) (w : Word) :
    (s.withFetchWord 32 w.toNat).moves = .issue w :: s.moves := by
  have hw : BitVec.ofNat 32 (w.toNat % 2 ^ 32) = w := by
    rw [Nat.mod_eq_of_lt w.isLt, BitVec.ofNat_toNat, BitVec.setWidth_eq]
  rw [State.withFetchWord, hw]

/-- Settles O6: one clause for each form of the next move. -/
theorem stepRunsTheDecodedOperation : Obligations.StepRunsTheDecodedOperation :=
  ⟨fun _ _ _ _ h hi => step_issue h hi,
    fun s w _ hi => step_issue (withFetchWord_moves s w) hi,
    fun _ _ _ h hm => step_perform h hm, fun _ h => step_nil h⟩

/-! ## An illegal word -/

/-- On an idle block a word of no operation is refused with its opcode. -/
theorem issueIllegal_idle {s : State} (h : Idle s) (w : Word) :
    issueIllegal (fieldOp w) s = refusal s .illegal (w.toNat / 2 ^ 24) := by
  rw [issueIllegal, busy_of_idle s h, if_neg Bool.false_ne_true, zext_eq, fieldOp_toNat]
  exact raiseError_idle s h .illegal _

/-- Settles O4: an illegal word's line is a refusal, and the decoder knows every other opcode. -/
theorem illegalOpcodes : Obligations.IllegalOpcodes := by
  refine ⟨fun s w rest h hidle hw => ?_, fun w hw => ?_⟩
  · rw [← fieldOp_toNat] at hw
    rw [step_issue_illegal h hw, issueIllegal_idle (s := { s with moves := rest }) hidle]
    rfl
  · rw [← fieldOp_toNat] at hw
    exact decode_of_legal hw

/-! ## The `CMD` write -/

/-- `OnCmdWrite` is what the port does with a word at offset 0x00C (10_state.md R20). -/
theorem perform_write_cmd (w : Word) (s : State) : perform (.write 0x00C 4 w) s = onCmdWrite w s := rfl

theorem onCmdWrite_of_decode {w : Word} {i : Instr} (h : decode w = .ok i) (s : State) :
    onCmdWrite w s = issue i s := by
  rw [onCmdWrite, h]

theorem onCmdWrite_illegal_idle {s : State} (hidle : Idle s) {w : Word}
    (hw : IllegalOp (fieldOp w).toNat) :
    onCmdWrite w s = refusal s .illegal (w.toNat / 2 ^ 24) := by
  rw [onCmdWrite, decode_of_illegal hw]
  exact issueIllegal_idle hidle w

/-- A `CMD` write of an operation, in every state (R148). -/
theorem issue_eq (i : Instr) (s : State) : issue i s = if i = .srst then s.softReset
    else if s.busy then s.record .busy 0x00C else accept i (stepsOf i s) s := by
  cases i <;> rfl

theorem issue_srst (s : State) : issue .srst s = s.softReset := rfl

theorem issue_idle {i : Instr} {s : State} (hi : i ≠ .srst) (h : Idle s) :
    issue i s = accept i (stepsOf i s) s := by
  rw [issue_eq, if_neg hi, busy_of_idle s h, if_neg Bool.false_ne_true]

theorem exec_srst (s : State) : exec .srst s = .next (issue .srst s) := rfl

theorem softReset_quiescent (s : State) : s.softReset.quiescent = true := rfl

/-- On an idle block an operation line is the `CMD` write, and the sequencer run after it. -/
theorem exec_eq_drain_issue {i : Instr} {s : State} (h : Idle s) :
    exec i s = .next (drain (issue i s)) := by
  by_cases hi : i = .srst
  · subst hi
    rw [exec_srst, issue_srst, drain_quiescent _ (softReset_quiescent s)]
  · rw [issue_idle hi h, exec_eq, if_neg hi, busy_of_idle s h, if_neg Bool.false_ne_true]

/-- The sequencer run is a number of its steps, after which it rests. -/
theorem drain_eq_iterate (s : State) :
    ∃ n, drain s = tick^[n] s ∧ (tick^[n] s).quiescent = true := by
  obtain ⟨n, hn⟩ := drain_is_iterate s
  exact ⟨n, hn, hn ▸ quiescent_drain s⟩

theorem readByte_started (i : Instr) (todo : List Micro) (s : State) (off : Nat) :
    (s.started i todo).readByte off = s.readByte off :=
  readByte_congr _ _ rfl rfl off

theorem readByte_writeByte_zero (s : State) (a off : Nat) :
    (s.writeByte off 0).readByte a = s.readByte a ∨ (s.writeByte off 0).readByte a = 0 ∧ a = off := by
  rw [readByte_writeByte]
  split
  · rename_i h
    exact .inr ⟨rfl, h.1⟩
  · exact .inl rfl

/-- The operation is running once it is accepted, and only a batch count that it clears first has
changed (log 4). -/
theorem issue_starts {i : Instr} {s : State} (hi : i ≠ .srst) (h : Idle s) :
    ∃ (r : Running) (t : State), r.op = i ∧ issue i s = t ∧
      t = { s with seq := .running r, mem := t.mem } ∧
      ∀ off, t.readByte off = s.readByte off ∨ (t.readByte off = 0 ∧
        ((off = 0x300 ∧ (i = .rdbatch ∨ i = .clrbatch 1)) ∨
          (off = 0x400 ∧ (i = .swap ∨ i = .clrbatch 0)))) := by
  rw [issue_idle hi h]
  rcases accept_cases i s with hacc | ⟨cleared, rest, -, hacc, hwhich⟩
  · exact ⟨_, _, rfl, hacc, rfl, fun off => .inl (readByte_started i _ s off)⟩
  · refine ⟨_, _, rfl, hacc, rfl, fun off => ?_⟩
    rw [readByte_started]
    rcases readByte_writeByte_zero s off cleared with hkept | ⟨hzero, rfl⟩
    · exact .inl hkept
    · exact .inr ⟨hzero, hwhich⟩

/-- Settles O8: the operation line is the `CMD` write and the sequencer's run, and the write is the
acceptance, the soft reset or the refusal. -/
theorem execIsIssueThenWait : Obligations.ExecIsIssueThenWait := by
  refine ⟨fun i s hbusy => ?_, fun s w i hi => onCmdWrite_of_decode hi s,
    fun i s hi hidle => issue_starts hi hidle, exec_srst, fun s w hidle hw => ?_, drain_eq_iterate⟩
  · obtain ⟨n, hn, hquiescent⟩ := drain_eq_iterate (issue i s)
    exact ⟨n, by rw [exec_eq_drain_issue (idle_of_not_busy s hbusy), hn], hquiescent⟩
  · rw [← fieldOp_toNat] at hw
    rw [perform_write_cmd, onCmdWrite_illegal_idle hidle hw]
    rfl

end Sys2Proof.Proofs
end

section
/-! SUPPORT. The codec operations run on an idle block (41_codec.md R75 to R84, R86): the range flag, the
result, and the rescaling as the exact quotient rounded half up. -/

namespace Sys2Proof.Proofs

open Sys2Proof.Machine Sys2Proof.Safety

/-! ## The steps of a codec operation -/

section
variable {s : State} {i : Instr} {x : Half} {full : Nat}

theorem flagRange_idle (h : Idle s) (x : Half) (full : Nat) : Idle (flagRange s x full) := by
  unfold flagRange
  split
  · exact h
  · exact h

/-- No 16-bit input is above the full scale 65535, so no flag is set there (R79, R83). -/
theorem flagRange_full (s : State) (x : Half) : flagRange s x 65535 = s :=
  if_neg (by omega)

theorem drain_rangeFlag (s : State) (op : Instr) (rest : List Micro) (loc : Locals) (x : Half)
    (full : Nat) : drain (s.runningAt op (rangeFlag x full ++ rest) loc) =
      drain ((flagRange s x full).runningAt op rest loc) := by
  unfold rangeFlag flagRange
  split
  · exact drain_flag s op rest loc .range x
  · rfl

theorem drain_lastResult (h : Idle s) (op : Instr) (loc : Locals) (r0 r1 : Nat) :
    drain (s.runningAt op [.result (toHalf r0) (toHalf r1)] loc) = ended s r0 r1 := by
  rw [drain_result, drain_nil]
  exact finish_idle _ h

/-- An operation that has steps is not `SRST`, so on an idle block it is its steps, run. -/
theorem exec_of_steps (h : Idle s) {todo : List Micro} (hsteps : stepsOf i s = todo)
    (hne : todo ≠ []) : exec i s = .next (drain (s.runningAt i todo {})) := by
  have hi : i ≠ .srst := by
    rintro rfl
    exact hne hsteps.symm
  rw [exec_idle i s h hi, hsteps]

/-- An operation whose one step is its result. -/
theorem exec_result (h : Idle s) {r0 r1 : Nat}
    (hsteps : stepsOf i s = [.result (toHalf r0) (toHalf r1)]) : exec i s = .next (ended s r0 r1) := by
  rw [exec_of_steps h hsteps (by simp), drain_lastResult h]

/-- An operation that flags its range and then gives its result. -/
theorem exec_flagged_result (h : Idle s) {r0 r1 : Nat}
    (hsteps : stepsOf i s = rangeFlag x full ++ [.result (toHalf r0) (toHalf r1)]) :
    exec i s = .next (ended (flagRange s x full) r0 r1) := by
  rw [exec_of_steps h hsteps (by simp), drain_rangeFlag,
    drain_lastResult (flagRange_idle h x full)]

end

/-! ## Byte pairs -/

theorem toNat_lowByte (v : Half) : (lowByte v).toNat = v.toNat % 256 := by
  rw [lowByte, BitVec.toNat_ofNat]
  omega

theorem toNat_highByte (v : Half) : (highByte v).toNat = v.toNat / 256 := by
  rw [highByte, BitVec.toNat_ofNat]
  omega

theorem exec_u16fb {s : State} (h : Idle s) (low high : Byte) :
    exec (.u16fb low high) s = .next (ended s (low.toNat + 256 * high.toNat) 0) :=
  exec_result h (congrArg (fun r => [Micro.result r 0]) (half_eq low high))

theorem exec_bfu16 {s : State} (h : Idle s) (v : Half) :
    exec (.bfu16 v) s = .next (ended s (v.toNat % 256) (v.toNat / 256)) := by
  have hlo : zext (lo v) = toHalf (v.toNat % 256) := by
    rw [zext_eq, lo_eq, toNat_lowByte, toHalf]
  have hhi : zext (hi v) = toHalf (v.toNat / 256) := by
    rw [zext_eq, hi_eq, toNat_highByte, toHalf]
  exact exec_result h (congrArg₂ (fun r0 r1 => [Micro.result r0 r1]) hlo hhi)

/-- Settles O18: the two bytes of a value are its remainder and its quotient by 256. -/
theorem bytePairs : Obligations.BytePairs := by
  refine fun s low high v h => ⟨exec_u16fb h low high, exec_bfu16 h v, ?_⟩
  rw [exec_u16fb h, toNat_lowByte, toNat_highByte, Nat.mod_add_div]

/-! ## Range conversions -/

/-- The quotient rounded half up in natural numbers is the one of R10 in rationals. -/
theorem conv_eq_floor (x target : Nat) {full : Nat} (hfull : 0 < full) :
    conv x full target = Nat.floor ((x : ℚ) * (target : ℚ) / (full : ℚ) + 1 / 2) := by
  have hq : (x : ℚ) * target / full + 1 / 2 =
      ((2 * x * target + full : ℕ) : ℚ) / ((2 * full : ℕ) : ℚ) := by
    push_cast
    field_simp
  rw [hq, Nat.floor_div_eq_div, conv]

theorem rescale_eq_scaled (x target : Nat) {full : Nat} (hfull : 0 < full) :
    rescale x full target = scaled x full target := by
  rw [rescale, conv_eq_floor x target hfull, scaled]

theorem rescale_mono (full target : Nat) {x y : Nat} (h : x ≤ y) :
    rescale x full target ≤ rescale y full target := by
  have hprod : 2 * x * target ≤ 2 * y * target := by gcongr
  exact min_le_min_right target (Nat.div_le_div_right (by omega))

/-- From 10 bits to 16 and back: the rounding errors are less than half a unit of the 10-bit scale. -/
theorem rescale_rescale_ten {x : Nat} (h : x ≤ 1023) :
    rescale (rescale x 1023 65535) 65535 1023 = x := by
  simp only [rescale, conv]
  omega

theorem exec_rescale {s : State} (h : Idle s) {i : Instr} {x : Half}
    {full target : Nat} (hfull : 0 < full) (hsteps : stepsOf i s = rescaleSteps x full target) :
    exec i s = .next (ended (flagRange s x full) (scaled x.toNat full target) 0) := by
  rw [← rescale_eq_scaled x.toNat target hfull]
  exact exec_flagged_result h hsteps

/-- A conversion from 16 bits, whose every input is in range. -/
theorem exec_rescale_full {s : State} (h : Idle s) {i : Instr} {x : Half}
    {target : Nat} (hsteps : stepsOf i s = rescaleSteps x 65535 target) :
    exec i s = .next (ended s (scaled x.toNat 65535 target) 0) := by
  rw [exec_rescale h (by decide) hsteps, flagRange_full]

/-- Settles O19: each conversion is a flag and a rescaling, which is monotone and on 10 bits is undone. -/
theorem rangeConversions : Obligations.RangeConversions := by
  refine ⟨fun s x h => ⟨?_, ?_, ?_, ?_, ?_, ?_⟩, fun x y hxy _ => ?_, fun x hx => ?_⟩
  · exact exec_rescale h (by decide) rfl
  · exact exec_rescale_full h rfl
  · exact exec_rescale h (by decide) rfl
  · exact exec_rescale h (by decide) rfl
  · exact exec_rescale h (by decide) rfl
  · exact exec_rescale_full h rfl
  · simp only [← rescale_eq_scaled, Nat.ofNat_pos]
    exact rescale_mono 1023 65535 hxy
  · simp only [← rescale_eq_scaled, Nat.ofNat_pos]
    exact rescale_rescale_ten hx

/-! ## Clamping -/

theorem clamp12_setWidth (v : Half) : (clamp12 v).setWidth 16 = toHalf (min v.toNat 4095) := by
  apply BitVec.eq_of_toNat_eq
  simp only [clamp12, toHalf, BitVec.toNat_setWidth, BitVec.toNat_ofNat]
  omega

theorem exec_clamp12 {s : State} (h : Idle s) (v : Half) :
    exec (.clamp12 v) s = .next (ended (flagRange s v 4095) (min v.toNat 4095) 0) :=
  exec_flagged_result h (congrArg (fun r => rangeFlag v 4095 ++ [Micro.result r 0]) (clamp12_setWidth v))

/-- Settles O20: `DACWR` is `CLAMP12` with `DAC_OUT` driven between the flag and the result. -/
theorem clampAndDac : Obligations.ClampAndDac := by
  refine fun s v h => ⟨exec_clamp12 h v, ?_⟩
  have hdac : Idle ((flagRange s v 4095).setDac (clamp12 v)) := flagRange_idle h v 4095
  have hsteps : stepsOf (.dacwr v) s = rangeFlag v 4095 ++
      [.setDac (clamp12 v), .result (toHalf (min v.toNat 4095)) (toHalf 0)] :=
    congrArg (fun r => rangeFlag v 4095 ++ [Micro.setDac (clamp12 v), .result r 0]) (clamp12_setWidth v)
  rw [exec_of_steps h hsteps (by simp), drain_rangeFlag, drain_setDac, drain_lastResult hdac]
  rfl

end Sys2Proof.Proofs
end

section
/-! SUPPORT. `ADC2V` (41_codec.md R85): the binary32 word of a rational is the nearest one, the even one of
two equally near (log 14). The finite words with sign 0, read as numbers, are in the order of their
values, so the nearest word is one of the two neighbours of the rational. -/

namespace Sys2Proof.Proofs

open Sys2Proof.Machine Sys2Proof.Safety

/-! ## The value of a word, as a function of its number -/

/-- `binary32Value` by the word's number, carried on past the largest finite word. -/
def codeValue (k : ℕ) : ℚ :=
  if k / 2 ^ 23 = 0 then ((k % 2 ^ 23 : ℕ) : ℚ) * (2 : ℚ) ^ (-149 : ℤ)
  else ((2 : ℚ) ^ 23 + ((k % 2 ^ 23 : ℕ) : ℚ)) * (2 : ℚ) ^ (((k / 2 ^ 23 : ℕ) : ℤ) - 150)

theorem binary32Value_eq (w : Word) : binary32Value w = codeValue w.toNat := rfl

theorem codeValue_subnormal {m : ℕ} (hm : m < 2 ^ 23) : codeValue m = m * (2 : ℚ) ^ (-149 : ℤ) := by
  rw [codeValue, Nat.div_eq_of_lt hm, if_pos rfl, Nat.mod_eq_of_lt hm]

theorem codeValue_normal (j : ℕ) {m : ℕ} (hm : m < 2 ^ 23) :
    codeValue ((j + 1) * 2 ^ 23 + m) = (2 ^ 23 + (m : ℚ)) * (2 : ℚ) ^ ((j : ℤ) - 149) := by
  have hdiv : ((j + 1) * 2 ^ 23 + m) / 2 ^ 23 = j + 1 := by omega
  have hmod : ((j + 1) * 2 ^ 23 + m) % 2 ^ 23 = m := by omega
  rw [codeValue, hdiv, hmod, if_neg (Nat.succ_ne_zero j)]
  congr 2
  push_cast
  ring

/-- A whole significand `m` on the scale `2 ^ (j - 149)`: the binade `j` reaches up to the first value of
the next one, and binade 0 down to 0. -/
def OnScale (j m : ℕ) : Prop := m ≤ 2 ^ 24 ∧ (j = 0 ∨ 2 ^ 23 ≤ m)

/-- The words of a binade are equally spaced, up to the first of the next binade. -/
theorem codeValue_onScale {j m : ℕ} (h : OnScale j m) :
    codeValue (j * 2 ^ 23 + m) = m * (2 : ℚ) ^ ((j : ℤ) - 149) := by
  obtain ⟨hle, hlow⟩ := h
  rcases lt_or_ge m (2 ^ 23) with hsub | hnormal
  · obtain rfl : j = 0 := by omega
    rw [Nat.zero_mul, Nat.zero_add, codeValue_subnormal hsub]
    simp
  obtain ⟨f, rfl⟩ := Nat.exists_eq_add_of_le hnormal
  rcases lt_or_eq_of_le hle with hlt | htop
  · have hk : j * 2 ^ 23 + (2 ^ 23 + f) = (j + 1) * 2 ^ 23 + f := by ring
    rw [hk, codeValue_normal j (by omega)]
    push_cast
    rfl
  · obtain rfl : f = 2 ^ 23 := by omega
    have hk : j * 2 ^ 23 + (2 ^ 23 + 2 ^ 23) = (j + 1 + 1) * 2 ^ 23 + 0 := by ring
    have hexp : ((j + 1 : ℕ) : ℤ) - 149 = (j : ℤ) - 149 + 1 := by push_cast; ring
    rw [hk, codeValue_normal (j + 1) (by norm_num), hexp, zpow_add_one₀ two_ne_zero]
    push_cast
    ring

theorem codeValue_strictMono : StrictMono codeValue := by
  refine strictMono_nat_of_lt_succ fun k => ?_
  obtain ⟨j, m, rfl, hlow, hhigh⟩ : ∃ j m, k = j * 2 ^ 23 + m ∧ OnScale j m ∧ OnScale j (m + 1) := by
    refine ⟨k / 2 ^ 23 - 1, k - (k / 2 ^ 23 - 1) * 2 ^ 23, ?_, ⟨?_, ?_⟩, ?_, ?_⟩ <;> omega
  rw [Nat.add_assoc, codeValue_onScale hlow, codeValue_onScale hhigh]
  gcongr
  exact Nat.lt_succ_self m

/-! ## The nearest word is a neighbour -/

/-- The number `k` is that of the word nearest to a rational, the even one of two equally near. -/
def NearestCode (k : ℕ) (v : ℚ) : Prop :=
  ∀ u, |codeValue k - v| ≤ |codeValue u - v| ∧
    (|codeValue k - v| = |codeValue u - v| → u = k ∨ k % 2 = 0)

section
variable {k : ℕ} {v : ℚ}

theorem nearestCode_of_lower (hlo : codeValue k ≤ v)
    (hnear : v - codeValue k ≤ codeValue (k + 1) - v)
    (htie : v - codeValue k = codeValue (k + 1) - v → k % 2 = 0) : NearestCode k v := by
  intro u
  rw [abs_of_nonpos (sub_nonpos.2 hlo)]
  rcases lt_trichotomy u k with hu | rfl | hu
  · have hval := codeValue_strictMono hu
    rw [abs_of_nonpos (by linarith)]
    exact ⟨by linarith, fun h => absurd h (by linarith)⟩
  · rw [abs_of_nonpos (sub_nonpos.2 hlo)]
    exact ⟨le_rfl, fun _ => .inl rfl⟩
  · have hval : codeValue (k + 1) ≤ codeValue u := codeValue_strictMono.monotone hu
    rw [abs_of_nonneg (by linarith)]
    exact ⟨by linarith, fun h => .inr (htie (by linarith))⟩

theorem nearestCode_of_upper (hhi : v ≤ codeValue (k + 1))
    (hnear : codeValue (k + 1) - v ≤ v - codeValue k)
    (htie : codeValue (k + 1) - v = v - codeValue k → k % 2 = 1) : NearestCode (k + 1) v := by
  intro u
  rw [abs_of_nonneg (sub_nonneg.2 hhi)]
  rcases lt_trichotomy u (k + 1) with hu | rfl | hu
  · have hval : codeValue u ≤ codeValue k := codeValue_strictMono.monotone (Nat.lt_succ_iff.1 hu)
    rw [abs_of_nonpos (by linarith)]
    refine ⟨by linarith, fun h => .inr ?_⟩
    have hodd := htie (by linarith)
    omega
  · rw [abs_of_nonneg (sub_nonneg.2 hhi)]
    exact ⟨le_rfl, fun _ => .inl rfl⟩
  · have hval := codeValue_strictMono hu
    rw [abs_of_nonneg (by linarith)]
    exact ⟨by linarith, fun h => absurd h (by linarith)⟩

end

/-! ## Rounding a quotient -/

theorem divNearestEven_cases (a b : ℕ) :
    (divNearestEven a b = a / b ∧ 2 * (a % b) ≤ b ∧ (2 * (a % b) = b → a / b % 2 = 0)) ∨
      (divNearestEven a b = a / b + 1 ∧ b ≤ 2 * (a % b) ∧ (2 * (a % b) = b → a / b % 2 = 1)) := by
  by_cases hround : b < 2 * (a % b) ∨ 2 * (a % b) = b ∧ a / b % 2 = 1
  · exact .inr ⟨by simp [divNearestEven, hround], by omega, by omega⟩
  · exact .inl ⟨by simp [divNearestEven, hround], by omega, by omega⟩

/-- Rounding a quotient on the scale of its binade to nearest even gives the nearest word. -/
theorem nearestCode_divNearestEven {j a b : ℕ} {v : ℚ} (hb : 0 < b)
    (hv : v = (a : ℚ) / b * (2 : ℚ) ^ ((j : ℤ) - 149)) (hhigh : a < 2 ^ 24 * b)
    (hlow : j = 0 ∨ 2 ^ 23 * b ≤ a) : NearestCode (j * 2 ^ 23 + divNearestEven a b) v := by
  have hq : a / b < 2 ^ 24 := Nat.div_lt_of_lt_mul (by rwa [Nat.mul_comm])
  have hq' : j = 0 ∨ 2 ^ 23 ≤ a / b := hlow.imp_right (Nat.le_div_iff_mul_le hb).2
  have hr : a % b < b := Nat.mod_lt a hb
  have hbelow := codeValue_onScale (j := j) (m := a / b) ⟨hq.le, hq'⟩
  have habove := codeValue_onScale (j := j) (m := a / b + 1) ⟨hq, by omega⟩
  -- In units `c` of the denominator, `v` is `q b + r` between `q b` and `(q + 1) b`.
  obtain ⟨c, hc, hcb⟩ : ∃ c : ℚ, 0 < c ∧ b * c = (2 : ℚ) ^ ((j : ℤ) - 149) :=
    ⟨(2 : ℚ) ^ ((j : ℤ) - 149) / b, by positivity, by field_simp⟩
  have hvc : v = (b * (a / b : ℕ) + (a % b : ℕ)) * c := by
    rw [hv, ← hcb, ← Nat.cast_mul, ← Nat.cast_add, Nat.div_add_mod]
    field_simp
  have hdown : v - codeValue (j * 2 ^ 23 + a / b) = (a % b : ℕ) * c := by
    rw [hbelow, hvc, ← hcb]
    ring
  have hup : codeValue (j * 2 ^ 23 + a / b + 1) - v = (b - a % b : ℕ) * c := by
    rw [Nat.add_assoc, habove, hvc, ← hcb, Nat.cast_sub hr.le]
    push_cast
    ring
  rcases divNearestEven_cases a b with ⟨heq, hnear, htie⟩ | ⟨heq, hnear, htie⟩
  · rw [heq]
    apply nearestCode_of_lower
    · exact sub_nonneg.1 (hdown ▸ by positivity)
    · rw [hdown, hup, mul_le_mul_iff_left₀ hc, Nat.cast_le]
      omega
    · rw [hdown, hup, mul_left_inj' hc.ne', Nat.cast_inj]
      omega
  · rw [heq, ← Nat.add_assoc]
    apply nearestCode_of_upper
    · exact sub_nonneg.1 (hup ▸ by positivity)
    · rw [hdown, hup, mul_le_mul_iff_left₀ hc, Nat.cast_le]
      omega
    · rw [hdown, hup, mul_left_inj' hc.ne', Nat.cast_inj]
      omega

/-! ## The binade of a quotient -/

section
variable {n d : ℕ}

/-- A quotient below a power of two, in natural numbers, as `ratExponent` tests it. -/
theorem div_lt_two_zpow_iff (n : ℕ) (hd : 0 < d) (e : ℤ) : (n : ℚ) / d < (2 : ℚ) ^ e ↔
    if 0 ≤ e then n < d * 2 ^ e.toNat else n * 2 ^ (-e).toNat < d := by
  have hd' : (0 : ℚ) < d := Nat.cast_pos.2 hd
  split
  · rename_i he
    lift e to ℕ using he
    rw [div_lt_iff₀' hd', zpow_natCast, Int.toNat_natCast]
    exact_mod_cast Iff.rfl
  · rename_i he
    obtain ⟨m, rfl⟩ : ∃ m : ℕ, e = -m := ⟨(-e).toNat, by omega⟩
    rw [zpow_neg, zpow_natCast, neg_neg, Int.toNat_natCast, div_lt_iff₀ hd', ← div_eq_inv_mul,
      lt_div_iff₀ (by positivity)]
    exact_mod_cast Iff.rfl

theorem two_zpow_log2_le (hn : n ≠ 0) : (2 : ℚ) ^ (n.log2 : ℤ) ≤ n := by
  rw [zpow_natCast]
  exact_mod_cast Nat.log2_self_le hn

theorem lt_two_zpow_log2 (n : ℕ) : (n : ℚ) < (2 : ℚ) ^ ((n.log2 : ℤ) + 1) := by
  exact_mod_cast Nat.lt_log2_self

/-- `ratExponent` is the binade of a positive quotient. -/
theorem ratExponent_bounds (hn : n ≠ 0) (hd : 0 < d) : (2 : ℚ) ^ ratExponent n d ≤ (n : ℚ) / d ∧
    (n : ℚ) / d < (2 : ℚ) ^ (ratExponent n d + 1) := by
  have hd' : (0 : ℚ) < d := Nat.cast_pos.2 hd
  have hlow : (2 : ℚ) ^ ((n.log2 : ℤ) - d.log2 - 1) ≤ (n : ℚ) / d := by
    rw [le_div_iff₀ hd']
    calc (2 : ℚ) ^ ((n.log2 : ℤ) - d.log2 - 1) * d
        ≤ (2 : ℚ) ^ ((n.log2 : ℤ) - d.log2 - 1) * (2 : ℚ) ^ ((d.log2 : ℤ) + 1) := by
          gcongr
          exact (lt_two_zpow_log2 d).le
      _ = (2 : ℚ) ^ (n.log2 : ℤ) := by
          rw [← zpow_add₀ two_ne_zero]
          ring_nf
      _ ≤ n := two_zpow_log2_le hn
  have hhigh : (n : ℚ) / d < (2 : ℚ) ^ ((n.log2 : ℤ) - d.log2 + 1) := by
    rw [div_lt_iff₀ hd']
    calc (n : ℚ) < (2 : ℚ) ^ ((n.log2 : ℤ) + 1) := lt_two_zpow_log2 n
      _ = (2 : ℚ) ^ ((n.log2 : ℤ) - d.log2 + 1) * (2 : ℚ) ^ (d.log2 : ℤ) := by
          rw [← zpow_add₀ two_ne_zero]
          ring_nf
      _ ≤ (2 : ℚ) ^ ((n.log2 : ℤ) - d.log2 + 1) * d := by
          gcongr
          exact two_zpow_log2_le hd.ne'
  rw [ratExponent]
  simp only [← div_lt_two_zpow_iff n hd]
  split
  · rename_i hbelow
    exact ⟨hlow, by rwa [sub_add_cancel]⟩
  · rename_i hbelow
    exact ⟨not_lt.1 hbelow, hhigh⟩

/-! ## The word of a quotient -/

/-- The exponent `binary32` rounds at: that of the least normal number and above. -/
def roundingExponent (n d : ℕ) : ℤ := max (ratExponent n d) (-126)

/-- `binary32` rounds the quotient scaled to units of its last place. -/
theorem binary32_eq_of_ne_zero (hn : n ≠ 0) (hd : 0 < d) : ∃ a b : ℕ, 0 < b ∧
    (a : ℚ) / b = (n : ℚ) / d * (2 : ℚ) ^ (23 - roundingExponent n d) ∧
    binary32 n d = BitVec.ofNat 32 (min ((roundingExponent n d + 126).toNat * 2 ^ 23 +
      divNearestEven a b) 0x7F800000) := by
  have he : max (ratExponent n d) (-126) = roundingExponent n d := rfl
  simp only [binary32, if_neg hn, he]
  generalize 23 - roundingExponent n d = scale
  split
  · rename_i hscale
    lift scale to ℕ using hscale
    refine ⟨n * 2 ^ scale, d, hd, ?_, rfl⟩
    rw [zpow_natCast]
    push_cast
    ring
  · rename_i hscale
    obtain ⟨m, rfl⟩ : ∃ m : ℕ, scale = -m := ⟨(-scale).toNat, by omega⟩
    refine ⟨n, d * 2 ^ m, by positivity, ?_, by rw [neg_neg, Int.toNat_natCast]⟩
    rw [zpow_neg, zpow_natCast]
    push_cast
    field_simp

/-- The scaled quotient has 24 bits, all of them but where the word is subnormal. -/
theorem scaled_quotient_bounds (hn : n ≠ 0) (hd : 0 < d) :
    (n : ℚ) / d * (2 : ℚ) ^ (23 - roundingExponent n d) < 2 ^ 24 ∧
    (roundingExponent n d = -126 ∨
      2 ^ 23 ≤ (n : ℚ) / d * (2 : ℚ) ^ (23 - roundingExponent n d)) := by
  obtain ⟨hlow, hhigh⟩ := ratExponent_bounds hn hd
  have hle : ratExponent n d ≤ roundingExponent n d := le_max_left _ _
  constructor
  · calc (n : ℚ) / d * (2 : ℚ) ^ (23 - roundingExponent n d)
        < (2 : ℚ) ^ (ratExponent n d + 1) * (2 : ℚ) ^ (23 - roundingExponent n d) := by gcongr
      _ = (2 : ℚ) ^ (ratExponent n d - roundingExponent n d + 24) := by
          rw [← zpow_add₀ two_ne_zero]
          ring_nf
      _ ≤ (2 : ℚ) ^ (24 : ℤ) := zpow_le_zpow_right₀ one_le_two (by omega)
      _ = 2 ^ 24 := by norm_num
  · rcases max_choice (ratExponent n d) (-126) with hmax | hmax
    · have he : roundingExponent n d = ratExponent n d := hmax
      right
      calc (2 : ℚ) ^ 23 = (2 : ℚ) ^ ratExponent n d * (2 : ℚ) ^ (23 - ratExponent n d) := by
            rw [← zpow_add₀ two_ne_zero, add_sub_cancel]
            norm_num
        _ ≤ (n : ℚ) / d * (2 : ℚ) ^ (23 - roundingExponent n d) := by
            rw [he]
            gcongr
    · exact .inl hmax

/-- `binary32` is the nearest word, cut off at infinity. -/
theorem binary32_nearestCode (n : ℕ) (hd : 0 < d) :
    ∃ k, NearestCode k ((n : ℚ) / d) ∧ binary32 n d = BitVec.ofNat 32 (min k 0x7F800000) := by
  rcases eq_or_ne n 0 with rfl | hn
  · exact ⟨0 * 2 ^ 23 + divNearestEven 0 1,
      nearestCode_divNearestEven (by decide) (by simp) (by decide) (.inl rfl), rfl⟩
  obtain ⟨a, b, hb, hab, hword⟩ := binary32_eq_of_ne_zero hn hd
  obtain ⟨hhigh, hlow⟩ := scaled_quotient_bounds hn hd
  have he : -126 ≤ roundingExponent n d := le_max_right _ _
  have hb' : (0 : ℚ) < b := Nat.cast_pos.2 hb
  rw [← hab] at hhigh hlow
  refine ⟨_, nearestCode_divNearestEven hb ?_ ?_ ?_, hword⟩
  · have hj : (((roundingExponent n d + 126).toNat : ℤ) - 149) = -(23 - roundingExponent n d) := by omega
    rw [hab, hj, zpow_neg, mul_inv_cancel_right₀ (by positivity)]
  · rw [div_lt_iff₀ hb'] at hhigh
    exact_mod_cast hhigh
  · refine hlow.imp (fun h => by omega) fun h => ?_
    rw [le_div_iff₀ hb'] at h
    exact_mod_cast h

end

/-! ## Below the overflow threshold -/

/-- A value nearer to the largest finite word than to the next power of two has a finite nearest word. -/
theorem lt_infinity_of_nearestCode {k : ℕ} {v : ℚ} (h : NearestCode k v)
    (hv : v < 2 ^ 128 - 2 ^ 103) : k < 0x7F800000 := by
  by_contra hk
  have hmax : codeValue 0x7F7FFFFF = 2 ^ 128 - 2 ^ 104 := by
    rw [show 0x7F7FFFFF = (253 + 1) * 2 ^ 23 + 0x7FFFFF by norm_num, codeValue_normal _ (by norm_num)]
    norm_num
  have hinf : codeValue 0x7F800000 = 2 ^ 128 := by
    rw [show 0x7F800000 = (254 + 1) * 2 ^ 23 + 0 by norm_num, codeValue_normal _ (by norm_num)]
    norm_num
  have hmono : codeValue 0x7F800000 ≤ codeValue k := codeValue_strictMono.monotone (not_lt.1 hk)
  obtain ⟨hnear, -⟩ := h 0x7F7FFFFF
  have hfar : |codeValue 0x7F7FFFFF - v| < codeValue 0x7F800000 - v := by
    rw [abs_lt, hmax, hinf]
    constructor <;> linarith
  exact absurd (hnear.trans_lt hfar) (not_lt.2 ((sub_le_sub_right hmono v).trans (le_abs_self _)))

theorem nearestEven_ofNat {k : ℕ} {v : ℚ} (h : NearestCode k v) (hk : k < 0x7F800000) :
    NearestEven (BitVec.ofNat 32 k) v := by
  have hnum : (BitVec.ofNat 32 k).toNat = k := by
    rw [BitVec.toNat_ofNat]
    omega
  refine ⟨hnum.symm ▸ hk, fun u _ => ?_⟩
  rw [binary32Value_eq, binary32Value_eq, hnum]
  obtain ⟨hnear, htie⟩ := h u.toNat
  exact ⟨hnear, fun heq => (htie heq).imp_left fun hu => BitVec.eq_of_toNat_eq (hu.trans hnum.symm)⟩

/-- Below the overflow threshold `binary32` is the nearest finite word. -/
theorem nearestEven_binary32 (n : ℕ) {d : ℕ} (hd : 0 < d) (hv : (n : ℚ) / d < 2 ^ 128 - 2 ^ 103) :
    NearestEven (binary32 n d) ((n : ℚ) / d) := by
  obtain ⟨k, hnear, hword⟩ := binary32_nearestCode n hd
  have hk := lt_infinity_of_nearestCode hnear hv
  rw [hword, min_eq_left hk.le]
  exact nearestEven_ofNat hnear hk

/-! ## The operation -/

theorem vRefDen_pos_of_wf {p : Params} (h : p.wf = true) : 0 < p.vRefDen := by
  simp only [Params.wf, Bool.and_eq_true, decide_eq_true_eq] at h
  exact h.2

/-- `ADC2V` gives the voltage's word, low half first. -/
theorem exec_adc2v {s : State} (h : Idle s) (x : Half) : exec (.adc2v x) s =
    .next (ended (flagRange s x 1023) ((voltageWord s.params x).toNat % 2 ^ 16)
      ((voltageWord s.params x).toNat / 2 ^ 16)) := by
  have hlow (w : Word) : w.extractLsb' 0 16 = toHalf (w.toNat % 2 ^ 16) := by
    apply BitVec.eq_of_toNat_eq
    simp [toHalf]
  have hhigh (w : Word) : w.extractLsb' 16 16 = toHalf (w.toNat / 2 ^ 16) := by
    apply BitVec.eq_of_toNat_eq
    simp [toHalf, Nat.shiftRight_eq_div_pow]
  exact exec_flagged_result h
    (congrArg₂ (fun r0 r1 => rangeFlag x 1023 ++ [Micro.result r0 r1]) (hlow _) (hhigh _))

/-- Settles O21: the voltage is the quotient that `voltageWord` rounds. -/
theorem adcToVoltage : Obligations.AdcToVoltage := by
  intro s x v h hwf hv hlt
  have hd : 0 < 1023 * s.params.vRefDen := Nat.mul_pos (by decide) (vRefDen_pos_of_wf hwf)
  have hquot : v = (min x.toNat 1023 * s.params.vRefNum : ℕ) / (1023 * s.params.vRefDen : ℕ) := by
    rw [hv]
    push_cast
    rw [← mul_div_assoc, div_div, mul_comm (s.params.vRefDen : ℚ)]
  rw [hquot] at hlt ⊢
  exact ⟨_, nearestEven_binary32 _ hd hlt, exec_adc2v h x⟩

end Sys2Proof.Proofs
end

section
/-! SUPPORT. The mux operations run on an idle block (42_mux.md R87, R89 to R91): the two refusals and the
selection that `MUXSEL` and `ADCSAMPLE` share, and what each does on the settled channel. -/

namespace Sys2Proof.Proofs

open Sys2Proof.Machine Sys2Proof.Safety

/-! ## The selection of a channel -/

/-- The mux on a channel, its settle time passed (R87). -/
def onChannel (s : State) (ch : Nat) : State :=
  { s with
    muxL := BitVec.ofNat 3 (ch % 8)
    muxU := BitVec.ofNat 3 (ch / 8)
    settledAt := s.now + s.params.tSettle
    now := s.now + s.params.tSettle }

theorem channel_lowPins (ch : Nat) :
    (BitVec.ofNat 6 ch).extractLsb' 0 3 = BitVec.ofNat 3 (ch % 8) := by
  apply BitVec.eq_of_toNat_eq
  simp only [BitVec.extractLsb'_toNat, BitVec.toNat_ofNat, Nat.shiftRight_zero]
  omega

theorem channel_highPins (ch : Nat) :
    (BitVec.ofNat 6 ch).extractLsb' 3 3 = BitVec.ofNat 3 (ch / 8) := by
  apply BitVec.eq_of_toNat_eq
  simp only [BitVec.extractLsb'_toNat, BitVec.toNat_ofNat, Nat.shiftRight_eq_div_pow]
  omega

theorem settle_setMux (s : State) (ch : Nat) :
    (s.setMux (BitVec.ofNat 6 ch)).settle = onChannel s ch := by
  rw [State.setMux, channel_lowPins, channel_highPins]
  rfl

section
variable {s : State} {i : Instr} {ch : Nat}

theorem selectSteps_open (hopen : s.bracket ≠ .closed) (andThen : List Micro) :
    selectSteps ch s andThen = [.raise .nest (toHalf ch)] := by
  rw [selectSteps, isOpen_eq, if_pos (decide_eq_true hopen)]

theorem selectSteps_closed (hclosed : s.bracket = .closed) (andThen : List Micro) :
    selectSteps ch s andThen = if 63 < ch then [.raise .badArg (toHalf ch)]
      else .setMux (BitVec.ofNat 6 ch) :: .settle :: andThen := by
  rw [selectSteps, isOpen_eq, if_neg (by simp [hclosed])]
  rfl

/-- An operation whose one step is a raise. -/
theorem exec_raise (h : Idle s) {k : ErrorKind} {n : Nat}
    (hsteps : stepsOf i s = [.raise k (toHalf n)]) : exec i s = .next (refusal s k n) := by
  rw [exec_of_steps h hsteps (by simp), drain_raise, raiseError_idle s h]

/-- Every operation that selects a channel refuses as R90 says, or goes on from the settled channel. -/
theorem exec_select (h : Idle s) {andThen : List Micro} (hsteps : stepsOf i s = selectSteps ch s andThen) :
    (s.bracket ≠ .closed → exec i s = .next (refusal s .nest ch)) ∧
    (s.bracket = .closed → 63 < ch → exec i s = .next (refusal s .badArg ch)) ∧
    (s.bracket = .closed → ch ≤ 63 →
      exec i s = .next (drain ((onChannel s ch).runningAt i andThen {}))) := by
  refine ⟨fun hopen => ?_, fun hclosed habove => ?_, fun hclosed hle => ?_⟩
  · rw [selectSteps_open hopen] at hsteps
    exact exec_raise h hsteps
  · rw [selectSteps_closed hclosed, if_pos habove] at hsteps
    exact exec_raise h hsteps
  · rw [selectSteps_closed hclosed, if_neg (Nat.not_lt.2 hle)] at hsteps
    rw [exec_of_steps h hsteps (by simp), drain_setMux, drain_settle, settle_setMux]

end

/-! ## What is done on the channel -/

/-- Settles O22: `MUXSEL` ends once its channel is settled. -/
theorem selectChannel : Obligations.SelectChannel := by
  intro s ch _ h
  have hselected : Idle (onChannel s ch) := h
  obtain ⟨hnest, hbadArg, hrun⟩ := exec_select (i := .muxsel ch) h rfl
  refine ⟨hnest, hbadArg, fun hclosed hle => ?_⟩
  rw [hrun hclosed hle, drain_nil, finish_idle _ hselected]
  rfl

theorem drawTen_setWidth (d : Draws) :
    (drawTen d).setWidth 16 = BitVec.ofNat 16 (d.head.toNat % 1024) := by
  apply BitVec.eq_of_toNat_eq
  simp only [drawTen, BitVec.toNat_setWidth, BitVec.toNat_ofNat]

/-- Settles O23: `ADCSAMPLE` takes its sample from the settled channel, then ends. -/
theorem sampleChannel : Obligations.SampleChannel := by
  intro s ch _ h
  have hsampled : Idle (onChannel s ch).sampleAdc := h
  obtain ⟨hnest, hbadArg, hrun⟩ := exec_select (i := .adcsample ch) h rfl
  refine ⟨hnest, hbadArg, fun hclosed hle => ?_⟩
  rw [hrun hclosed hle, drain_sampleAdc, drain_nil, finish_idle _ hsampled, State.sampleAdc,
    drawTen_setWidth]
  rfl

end Sys2Proof.Proofs
end

section
/-! SUPPORT. The registry operations run on an idle block (43_registry.md R93, R96, R97): the scan in
registry order as its first match; and what a controller write to an entry of an idle block changes
(R95; 10_state.md R31). -/

namespace Sys2Proof.Proofs

open Sys2Proof.Machine Sys2Proof.Safety

/-! ## The scan in registry order -/

section
variable {n i : Nat} {idOf : Nat → Byte} {id : Byte}

theorem find?_range_of_first (hi : i < n) (hrow : idOf i = id) (hfirst : ∀ j < i, idOf j ≠ id) :
    (List.range n).find? (fun j => decide (idOf j = id)) = some i := by
  rw [List.find?_range_eq_some]
  exact ⟨decide_eq_true hrow, List.mem_range.2 hi, fun j hj => by simpa using hfirst j hj⟩

theorem find?_range_of_absent (habsent : ∀ j < n, idOf j ≠ id) :
    (List.range n).find? (fun j => decide (idOf j = id)) = none := by
  rw [List.find?_eq_none]
  exact fun j hj => by simpa using habsent j (List.mem_range.1 hj)

end

/-! ## The two lookups -/

section
variable {s : State} {id : Byte} {i : Nat}

theorem muscleIdOf_eq (s : State) (i : Nat) : s.muscleIdOf i = s.readByte (0x501 + 4 * i) :=
  congrArg s.readByte (by rw [registryBase]; omega)

theorem lookupMuscle_of_first (hi : i < s.params.nSlaves) (hrow : s.readByte (0x501 + 4 * i) = id)
    (hfirst : ∀ j < i, s.readByte (0x501 + 4 * j) ≠ id) : s.lookupMuscle id = some i := by
  simp only [← muscleIdOf_eq] at hrow hfirst
  exact find?_range_of_first hi hrow hfirst

theorem lookupMuscle_of_absent (habsent : ∀ j < s.params.nSlaves, s.readByte (0x501 + 4 * j) ≠ id) :
    s.lookupMuscle id = none := by
  simp only [← muscleIdOf_eq] at habsent
  exact find?_range_of_absent habsent

theorem lookupSlave_of_first (hi : i < s.params.nSlaves) (hrow : s.readByte (0x500 + 4 * i) = id)
    (hfirst : ∀ j < i, s.readByte (0x500 + 4 * j) ≠ id) : s.lookupSlave id = some i :=
  find?_range_of_first hi hrow hfirst

theorem lookupSlave_of_absent (habsent : ∀ j < s.params.nSlaves, s.readByte (0x500 + 4 * j) ≠ id) :
    s.lookupSlave id = none :=
  find?_range_of_absent habsent

theorem lookupResult_eq (found : Option Nat) : lookupResult found = toHalf (found.getD 255) := by
  cases found with
  | none => rfl
  | some i => rfl

theorem exec_lkmus (h : Idle s) (id : Byte) :
    exec (.lkmus id) s = .next (ended s ((s.lookupMuscle id).getD 255) 0) :=
  exec_result h (congrArg (fun r => [Micro.result r 0]) (lookupResult_eq _))

theorem exec_lkslv (h : Idle s) (id : Byte) :
    exec (.lkslv id) s = .next (ended s ((s.lookupSlave id).getD 255) 0) :=
  exec_result h (congrArg (fun r => [Micro.result r 0]) (lookupResult_eq _))

end

/-- Settles O24: the scan stops at the first match, and the registry of a safe state holds no 255. -/
theorem lookups : Obligations.Lookups := by
  intro s id hidle
  refine ⟨fun i hi hrow hfirst => ?_, fun habsent => ?_, fun i hi hrow hfirst => ?_,
    fun habsent => ?_, fun hinv => ⟨?_, ?_⟩⟩
  · have hfound := lookupMuscle_of_first hi hrow hfirst
    exact ⟨by rw [exec_lkmus hidle, hfound, Option.getD_some], hfound⟩
  · have hnone := lookupMuscle_of_absent habsent
    exact ⟨by rw [exec_lkmus hidle, hnone, Option.getD_none], hnone⟩
  · rw [exec_lkslv hidle, lookupSlave_of_first hi hrow hfirst, Option.getD_some]
  · rw [exec_lkslv hidle, lookupSlave_of_absent habsent, Option.getD_none]
  · have hmuscle : s.lookupMuscle 255 = none :=
      find?_range_of_absent fun j hj => (hinv.registry j hj).2
    rw [exec_lkmus hidle, hmuscle, Option.getD_none]
  · have hslave : s.lookupSlave 255 = none :=
      find?_range_of_absent fun j hj => (hinv.registry j hj).1
    rw [exec_lkslv hidle, hslave, Option.getD_none]

/-! ## A word written to an entry -/

section
variable {i : Nat}

/-- The offset of a slave index's entry fits the port's address (R42). -/
theorem toNat_entry (hi : i < 24) : (BitVec.ofNat 12 (0x500 + 4 * i)).toNat = 0x500 + 4 * i := by
  rw [BitVec.toNat_ofNat]
  omega

theorem accepted_entry (hi : i < 24) : Accepted (BitVec.ofNat 12 (0x500 + 4 * i)) 4 := by
  rw [Accepted, Mapped, toNat_entry hi]
  omega

theorem not_readOnly_entry (hi : i < 24) : ¬ ReadOnly (0x500 + 4 * i) := by
  rw [ReadOnly]
  omega

theorem byteExists_entry {p : Params} (hp : p.wf = true) (hi : i < p.nSlaves) {k : Nat} (hk : k < 4) :
    byteExists p (0x500 + 4 * i + k) = true ↔ k ≠ 3 := by
  have hn := nSlaves_le_of_wf hp
  simp only [byteExists, inRange, Bool.or_eq_true, Bool.and_eq_true, decide_eq_true_eq]
  simp only [txBufBase, rxBufBase, cmdBatchBase, sensBatchBase, registryBase, slaveRecBase, batchBytes]
  omega

/-- The port hands an idle block's write to an entry over to R95's check. -/
theorem portWrite_entry {s : State} (v : Word) (hidle : Idle s) (hi : i < 24) :
    s.portWrite (BitVec.ofNat 12 (0x500 + 4 * i)) 4 v = s.writeRegistry (0x500 + 4 * i) v := by
  have hreg : inRange registryBase 96 (0x500 + 4 * i) = true := by
    rw [inRange, Bool.and_eq_true, decide_eq_true_eq, decide_eq_true_eq, registryBase]
    omega
  have hro : readOnlyWord (BitVec.ofNat 12 (0x500 + 4 * i)).toNat = false := by
    rw [toNat_entry hi]
    exact readOnlyWord_eq_false (not_readOnly_entry hi)
  have hne : ∀ r : BitVec 12, r.toNat < 0x500 → BitVec.ofNat 12 (0x500 + 4 * i) ≠ r := by
    rintro r hr rfl
    rw [toNat_entry hi] at hr
    omega
  rw [portWrite_idle hidle ((goodAccess_iff _ _).2 (accepted_entry hi)) hro (hne _ (by decide))
    (hne _ (by decide)) (hne _ (by decide)), toNat_entry hi, State.writeIdle, if_neg (by omega),
    if_neg (by omega), if_neg (by omega), if_neg (by omega), hreg, if_pos rfl]

theorem byteOf_eq_255_iff (v : Word) (k : Nat) :
    byteOf v k = 255 ↔ v.toNat / 2 ^ (8 * k) % 256 = 255 := by
  rw [byteOf_eq, ← BitVec.toNat_inj, BitVec.toNat_ofNat]
  rfl

/-- A word whose byte 0 or byte 1 is 255 would make 255 a slave_id or a muscle_id. -/
theorem holds255_iff (v : Word) : byteOf v 0 = 255 ∨ byteOf v 1 = 255 ↔
    v.toNat % 256 = 255 ∨ v.toNat / 256 % 256 = 255 := by
  rw [byteOf_eq_255_iff, byteOf_eq_255_iff, Nat.mul_zero, Nat.pow_zero, Nat.div_one]
  rfl

/-- R95's check of an existing entry, in the terms of the written word. -/
theorem writeRegistry_entry {s : State} (v : Word) (hi : i < s.params.nSlaves) :
    s.writeRegistry (0x500 + 4 * i) v =
      if v.toNat % 256 = 255 ∨ v.toNat / 256 % 256 = 255 then s.record .badArg (toHalf (0x500 + 4 * i))
      else s.writeWord (0x500 + 4 * i) v := by
  have hentry : (0x500 + 4 * i - registryBase) / 4 < s.params.nSlaves := by
    rw [registryBase]
    omega
  simp only [State.writeRegistry, hentry, true_and, holds255_iff]

end

/-- Settles O55: the write is one recorded error or one stored word, whose byte 3 the entry lacks. -/
theorem registryWrites : Obligations.RegistryWrites := by
  intro s i v hidle hwf hi
  have hwrite : perform (.write (BitVec.ofNat 12 (0x500 + 4 * i)) 4 v) s = _ :=
    (portWrite_entry v hidle (hi.trans_le (nSlaves_le_of_wf hwf))).trans (writeRegistry_entry v hi)
  refine ⟨fun h255 => ?_, fun hslave hmuscle => ?_⟩
  · rw [hwrite, if_pos h255]
    rfl
  · rw [if_neg (not_or.2 ⟨hslave, hmuscle⟩)] at hwrite
    refine ⟨_, hwrite, writeWord_eq s _ v, fun k hk => ?_, ?_, readByte_writeWord_other s _ v⟩
    · rw [readByte_writeWord s _ v (by omega), if_pos ((byteExists_entry hwf hi (by omega)).2 (by omega)),
        byteOf_eq]
    · rw [show 0x503 + 4 * i = 0x500 + 4 * i + 3 by omega, readByte_writeWord s _ v (by decide), if_neg]
      exact fun hexists => (byteExists_entry hwf hi (by decide)).1 hexists rfl

end Sys2Proof.Proofs
end

section
/-! SUPPORT. The raw bracket operations run on an idle block (44_spi_transport.md R98 to R101, R104 to
R108), what one exchange makes of the slave peer (46_slave_peer.md R127; 70_reset_and_hazards.md R165),
and the rules that carry a transfer's outcome into the terms of the statements. -/

namespace Sys2Proof.Proofs

open Sys2Proof.Machine Sys2Proof.Safety

/-! ## One exchange -/

/-- Settles O27: the fields of `SpiXfer` in the open bracket, where the peer's reply is the bus's. -/
theorem byteExchange : Obligations.ByteExchange := by
  intro s i out hopen
  have hreply : s.busReply out = s.peerReply i out := by rw [State.busReply, hopen]
  rw [State.exchange, State.replyByte, hreply]
  rfl

/-- The exchange with an attached, selected slave is its byte interrupt (R126, R127). -/
theorem peerReply_answered {s : State} {i : Nat} {p : Peer} (out : Byte) (hp : s.peers[i]? = some p)
    (hattached : p.attached = true) (hselected : s.selects i = true) :
    s.peerReply i out = ((p.exchange s.params s.byteStart out s.draws).1,
      s.peers.set i (p.exchange s.params s.byteStart out s.draws).2.1,
      (p.exchange s.params s.byteStart out s.draws).2.2) := by
  simp [State.peerReply, hp, hattached, hselected]

theorem drawn_spiIndex (p : Peer) (d : Draws) :
    (p.drawn d).spiIndex = (d.peek 0).toNat % 256 := BitVec.toNat_setWidth ..

/-- A drawn length is decided by the low bit of its draw. -/
theorem frameLen_of_lowBit (w : Word) :
    (if w.getLsbD 0 then FrameLen.eight else .four) = if w.toNat % 2 = 1 then .eight else .four := by
  simp [BitVec.getLsbD, Nat.testBit_zero]

/-- The six draws a drawn peer's staged bytes are taken from. -/
def stagedDraws (d : Draws) : List Byte :=
  (List.range 6).map fun k => (d.peek (6 + k)).setWidth 8

theorem drawn_staged (p : Peer) (d : Draws) : (p.drawn d).staged = (stagedDraws d).take
    (if (d.peek 5).toNat % 3 = 0 then 0 else if (d.peek 5).toNat % 3 = 1 then 2 else 6) := rfl

theorem drawn_staged_length (p : Peer) (d : Draws) : (p.drawn d).staged.length = 0 ∨
    (p.drawn d).staged.length = 2 ∨ (p.drawn d).staged.length = 6 := by
  rw [drawn_staged, List.length_take, stagedDraws, List.length_map, List.length_range]
  split
  · exact .inl rfl
  split
  · exact .inr (.inl rfl)
  · exact .inr (.inr rfl)

theorem drawn_staged_getElem? {p : Peer} {d : Draws} {k : Nat} {b : Byte}
    (h : (p.drawn d).staged[k]? = some b) : b = (d.peek (6 + k)).setWidth 8 := by
  rw [drawn_staged, List.getElem?_take, Option.ite_none_right_eq_some, stagedDraws,
    List.getElem?_map, Option.map_eq_some_iff] at h
  obtain ⟨-, j, hj, rfl⟩ := h
  obtain ⟨-, rfl⟩ := List.getElem?_eq_some_iff.1 hj
  rw [List.getElem_range]

/-- An exchange is a safe step in an open bracket only (R98). -/
theorem low_of_exchange {n : Nat} {p : Phase} {out : Byte} {dest : Dest} {rest : List Micro}
    (h : safeSteps n p (.exchange out dest :: rest) = true) : p = .low := by
  by_contra hp
  simp [safeSteps, Phase.after, hp] at h

/-- In a safe state with an open bracket, idle or about to exchange, the bracket's slave is selected
and every slave that keeps up has handled its last byte (R98, R165). -/
theorem low_of_inv {s : State} {i : Nat} (hinv : Inv s) (hopen : s.bracket = .opened i)
    (hnext : Idle s ∨
      ∃ op b dest rest loc, s.seq = .running ⟨op, .exchange b dest :: rest, loc⟩) :
    Phase.low.holds s := by
  have hpins := hinv.pins
  unfold PinsOk at hpins
  rcases hnext with hidle | ⟨op, b, dest, rest, loc, hseq⟩
  · rw [show s.seq = .idle from hidle] at hpins
    rcases hpins with ⟨-, hclosed⟩ | hlow
    · rw [hopen] at hclosed
      cases hclosed
    · exact hlow
  · rw [hseq] at hpins
    obtain ⟨p, hholds, hsafe⟩ := hpins
    rwa [low_of_exchange hsafe] at hholds

/-- Settles O28: one clause for each of the peer's answers, and the safe phase of an exchange. -/
theorem peerReply : Obligations.PeerReply := by
  intro s i out p hp
  refine ⟨fun hatt hsel htimely => ?_, fun hatt hsel hearly => ?_, fun hnone => ?_,
    fun hinv hkeep hopen hnext => ?_⟩
  · rw [peerReply_answered out hp hatt hsel, Peer.exchange_timely _ _ _ _ _ htimely]
    exact ⟨rfl, rfl, rfl⟩
  · rw [peerReply_answered out hp hatt hsel, Peer.exchange_early _ _ _ _ _ hearly]
    exact ⟨_, rfl, rfl, rfl, drawn_spiIndex p _, frameLen_of_lowBit _, frameLen_of_lowBit _, rfl, rfl,
      drawn_staged_length p _,
      fun k b hb => (drawn_staged_getElem? (p := p) hb).trans (by
        rw [show 7 + k = 6 + k + 1 by omega]
        rfl),
      rfl, rfl, rfl⟩
  · exact peerReply_unanswered s i out p hp hnone
  · obtain ⟨⟨j, hj, -, hsel⟩, hhandled⟩ := low_of_inv hinv hopen hnext
    rw [hopen, Bracket.opened.injEq] at hj
    exact ⟨hj ▸ hsel, hhandled hkeep p (List.mem_of_getElem? hp)⟩

/-! ## The bracket opened and closed -/

section
variable {s : State}

theorem isOpen_of_opened (h : s.bracket ≠ .closed) : s.isOpen = true := by
  rw [isOpen_eq, decide_eq_true h]

theorem not_isOpen_of_closed (h : s.bracket = .closed) : ¬ s.isOpen = true := by
  simp [isOpen_eq, h]

/-- `Begin(k)` (R101). -/
theorem drain_beginSteps (s : State) (op : Instr) (rest : List Micro) (loc : Locals) (k : Nat) :
    drain (s.runningAt op (beginSteps k ++ rest) loc) = drain ((begun s k).runningAt op rest
      { loc with replies := [], ownBracket := true }) := by
  rw [beginSteps, List.cons_append, List.cons_append, List.cons_append, List.nil_append, drain_setMux,
    drain_settle, drain_assertCs, ← opened_eq_begun]
  rfl

/-- `End()` (R101). -/
theorem drain_endSteps (s : State) (op : Instr) (rest : List Micro) (loc : Locals) :
    drain (s.runningAt op (endSteps ++ rest) loc) =
      drain ((released s).runningAt op rest { loc with ownBracket := false }) := by
  rw [endSteps, List.cons_append, List.cons_append, List.nil_append, drain_raiseCs, drain_releaseCs]
  rfl

end

/-- Settles O25: the two refusals, and `Begin(i)`. -/
theorem beginOpensABracket : Obligations.BeginOpensABracket := by
  intro s i _ h
  have hsteps : stepsOf (.beginBracket i) s = stepsBegin i s := rfl
  refine ⟨fun hopen => ?_, fun hclosed habove => ?_, fun hclosed hbelow _ => ?_⟩
  · exact exec_raise h (by rw [hsteps, stepsBegin, if_pos (isOpen_of_opened hopen)])
  · exact exec_raise h (by
      rw [hsteps, stepsBegin, if_neg (not_isOpen_of_closed hclosed), if_pos habove])
  · rw [stepsBegin, if_neg (not_isOpen_of_closed hclosed), if_neg (Nat.not_le.2 hbelow)] at hsteps
    have hbegun : Idle (begun s i) := h
    rw [exec_of_steps h hsteps (by simp [beginSteps]), ← List.append_nil (beginSteps i),
      drain_beginSteps, drain_nil, finish_idle _ hbegun]
    rfl

/-- Settles O26: the refusal, and `End()`. -/
theorem endClosesTheBracket : Obligations.EndClosesTheBracket := by
  intro s h
  have hsteps : stepsOf .endBracket s = stepsEnd s := rfl
  refine ⟨fun hclosed => ?_, fun hopen => ?_⟩
  · exact exec_raise h (by rw [hsteps, stepsEnd, if_neg (not_isOpen_of_closed hclosed)]; rfl)
  · rw [stepsEnd, if_pos (isOpen_of_opened hopen)] at hsteps
    have hreleased : Idle (released s) := h
    rw [exec_of_steps h hsteps (by simp [endSteps]), ← List.append_nil endSteps, drain_endSteps,
      drain_nil, finish_idle _ hreleased]
    rfl

/-! ## The result of a transfer -/

theorem zext_eq_of_single {r : List Byte} (h : r.length = 1) :
    zext (r.getD 0 0) = BitVec.ofNat 16 (wordAt r 0) := by
  obtain ⟨b, rfl⟩ := List.length_eq_one_iff.1 h
  exact zext_eq b

theorem replyWord_eq (r : List Byte) (k : Nat) : replyWord r k = BitVec.ofNat 16 (wordAt r k) :=
  half_eq _ _

section
variable {s : State} (h : Idle s) (op : Instr) (loc : Locals)
include h

theorem drain_lastReply8 (hone : loc.replies.length = 1) :
    drain (s.runningAt op [.resultReply8] loc) = ended s (wordAt loc.replies 0) 0 := by
  rw [drain_resultReply8, drain_nil, zext_eq_of_single hone]
  exact finish_idle _ h

theorem drain_lastReply16 :
    drain (s.runningAt op [.resultReply16] loc) = ended s (wordAt loc.replies 0) 0 := by
  rw [drain_resultReply16, drain_nil, replyWord_eq]
  exact finish_idle _ h

theorem drain_lastTxn (all : Bool) : drain (s.runningAt op [.resultTxn all] loc) =
    ended s (wordAt loc.replies 2) (if all then wordAt loc.replies 4 else 0) := by
  rw [drain_resultTxn, drain_nil, replyWord_eq, replyWord_eq]
  cases all
  · exact finish_idle _ h
  · exact finish_idle _ h

end

/-- Settles O31: one exchange, and two with the low byte first. -/
theorem transfersInABracket : Obligations.TransfersInABracket := by
  refine ⟨fun s out h => ?_, fun s out h => ?_⟩
  · have hsteps : stepsOf (.xfer8 out) s = stepsXfer8 out s := rfl
    refine ⟨fun hclosed => ?_, fun hopen => ?_⟩
    · exact exec_raise h (by
        rw [hsteps, stepsXfer8, if_neg (not_isOpen_of_closed hclosed), zext_eq]; rfl)
    · rw [stepsXfer8, if_pos (isOpen_of_opened hopen)] at hsteps
      have hexchanged : Idle (s.exchange out) := h
      rw [exec_of_steps h hsteps (by simp), drain_exchange, drain_lastReply8 hexchanged _ _ rfl]
      rfl
  · have hsteps : stepsOf (.xfer16 out) s = stepsXfer16 out s := rfl
    refine ⟨fun hclosed => ?_, fun hopen => ?_⟩
    · exact exec_raise h (by
        rw [hsteps, stepsXfer16, if_neg (not_isOpen_of_closed hclosed)]; rfl)
    · rw [stepsXfer16, if_pos (isOpen_of_opened hopen), lo_eq, hi_eq] at hsteps
      have hexchanged : Idle ((s.exchange (lowByte out)).exchange (highByte out)) := h
      rw [exec_of_steps h hsteps (by simp), drain_exchange, drain_exchange,
        drain_lastReply16 hexchanged]
      rfl

end Sys2Proof.Proofs
end

section
/-! SUPPORT. The bracketed operations run on an idle block (44_spi_transport.md R103, R109 to R118) and the
array transfer (R108): one bracket on each target as `Brackets` says it, the rows of `RXBUF` the replies
are kept in, and the operations of section 3 as one form with three choices. -/

namespace Sys2Proof.Proofs

open Sys2Proof.Machine Sys2Proof.Safety

/-! ## What a transfer may change -/

section
variable {s t u : State}

theorem transferFrame_trans (h : TransferFrame s t) (h' : TransferFrame t u) : TransferFrame s u := by
  unfold TransferFrame at h h' ⊢
  rw [h', h]

theorem transferFrame_ended (h : TransferFrame s t) (r0 r1 : Nat) : TransferFrame s (ended t r0 r1) :=
  congrArg (ended · r0 r1) h

theorem idle_of_transferFrame (h : TransferFrame s t) (hidle : Idle s) : Idle t :=
  (congrArg State.seq h).trans hidle

theorem params_of_transferFrame (h : TransferFrame s t) : t.params = s.params :=
  (congrArg State.params h).trans rfl

theorem exchanges_transferFrame (s : State) (out : List Byte) :
    TransferFrame s (exchanges s out).1 := by
  unfold TransferFrame
  rw [exchanges_frame]

theorem writeBytes_transferFrame (s : State) (off : Nat) (bs : List Byte) :
    TransferFrame s (s.writeBytes off bs) := by
  unfold TransferFrame
  rw [writeBytes_frame]

theorem bracketsRun_transferFrame (s : State) (out : List Byte) (keep : Bool) (targets : List Nat) :
    TransferFrame s (bracketsRun s out keep targets).1 := by
  unfold TransferFrame
  rw [bracketsRun_frame]

theorem ended_sameSpi (s : State) (r0 r1 : Nat) : SameSpi s (ended s r0 r1) :=
  ⟨rfl, rfl, rfl, rfl, rfl, rfl, rfl, rfl, rfl, rfl, rfl⟩

theorem readByte_ended (s : State) (r0 r1 off : Nat) : (ended s r0 r1).readByte off = s.readByte off :=
  readByte_congr s _ rfl rfl off

end

/-! ## Replies, one for each target -/

section
variable {targets : List Nat} {replies : List (List Byte)} {n : Nat}

theorem length_of_reply (hlen : replies.map List.length = targets.map fun _ => n) {r : List Byte}
    (hr : r ∈ replies) : r.length = n := by
  have hmem : r.length ∈ replies.map List.length := List.mem_map_of_mem hr
  rw [hlen, List.mem_map] at hmem
  obtain ⟨-, -, heq⟩ := hmem
  exact heq.symm

theorem reply_of_target (hlen : replies.map List.length = targets.map fun _ => n) {i : Nat}
    (hi : i ∈ targets) : ∃ (j : Nat) (r : List Byte),
      targets[j]? = some i ∧ replies[j]? = some r ∧ r.length = n := by
  have hcount : replies.length = targets.length := by
    simpa only [List.length_map] using congrArg List.length hlen
  obtain ⟨j, hj, rfl⟩ := List.getElem_of_mem hi
  have hreply : j < replies.length := hcount.symm ▸ hj
  exact ⟨j, replies[j], List.getElem?_eq_getElem hj, List.getElem?_eq_getElem hreply,
    length_of_reply hlen (List.getElem_mem hreply)⟩

theorem reply_of_single (hlen : replies.map List.length = targets.map fun _ => n)
    (hone : targets.length = 1) : ∃ r, replies = [r] ∧ r.length = n := by
  have hcount : replies.length = 1 := by
    rw [← hone]
    simpa only [List.length_map] using congrArg List.length hlen
  obtain ⟨r, rfl⟩ := List.length_eq_one_iff.1 hcount
  exact ⟨r, rfl, length_of_reply hlen List.mem_cons_self⟩

end

/-! ## One bracket on each target -/

/-- The history of the brackets, in the terms of the statements. -/
theorem bracketEvents_zip (out : List Byte) (targets : List Nat) (replies : List (List Byte)) :
    List.zipWith (fun i r => BusEvent.asserted (slaveChannel i) ::
      List.zipWith BusEvent.byte out r ++ [.released]) targets replies =
    List.zipWith (fun i x => bracketEvents i x.1 x.2) targets
      ((targets.map fun _ => out).zip replies) := by
  induction targets generalizing replies with
  | nil => rfl
  | cons i targets ih =>
    cases replies with
    | nil => rfl
    | cons r replies =>
      rw [List.map_cons, List.zip_cons_cons, List.zipWith_cons_cons, List.zipWith_cons_cons, ih]
      rfl

/-- A state whose SPI side is that after one bracket on each target is what `Brackets` says, whatever is
done with the replies. -/
theorem brackets_of_sameSpi {s t : State} {targets : List Nat} {out : List Byte}
    (h : SameSpi (bracketsOn s (targets.zip (targets.map fun _ => out))).1 t) :
    Brackets s t targets (targets.map fun _ => out)
      (bracketsOn s (targets.zip (targets.map fun _ => out))).2 := by
  obtain ⟨hrun, hreplies⟩ := bracketsRun_sameSpi s out false targets
  have hspi : SameSpi (bracketsRun s out false targets).1 t := hrun.symm.trans h
  refine ⟨rfl, h, ?_, ?_, fun hne => ?_, ?_, fun i hi => ?_, fun j hj => ?_, ?_⟩
  · rw [← hreplies, bracketsRun_lengths, List.map_map]
    rfl
  · rw [hspi.bus, bracketsRun_bus, bracketEvents_zip, hreplies]
  · obtain ⟨hcs, hclosed, -⟩ :=
      bracketsRun_pins s out false targets _ (List.getLast?_eq_some_getLast hne)
    exact ⟨hspi.cs.trans hcs, hspi.bracket.trans hclosed⟩
  · rintro rfl
    exact ⟨h.cs, h.bracket, h.muxL, h.muxU, h.lastByteEnd, h.now, h.settledAt, h.draws⟩
  · obtain ⟨-, -, hmux⟩ := bracketsRun_pins s out false targets i hi
    rw [hspi.muxU, hspi.muxL]
    exact hmux
  · rw [hspi.peers]
    exact bracketsRun_others s out false targets j hj
  · rw [hspi.now, List.map_map, Function.comp_def, List.map_const', List.sum_replicate]
    exact bracketsRun_time s out false targets

/-! ## The rows of `RXBUF` -/

theorem byteExists_rxBuf {p : Params} {i k : Nat} (hi : i < p.nSlaves) (hk : k < 8) :
    byteExists p (0x200 + 8 * i + k) = true := by
  have hrow : inRange rxBufBase (8 * p.nSlaves) (0x200 + 8 * i + k) = true := by
    rw [inRange, Bool.and_eq_true, decide_eq_true_eq, decide_eq_true_eq, rxBufBase]
    omega
  simp [byteExists, hrow]

/-- `KeepsReplies` of one target is its one row. -/
theorem keepsReplies_single_iff {s t : State} {i : Nat} {r : List Byte} :
    KeepsReplies s t [i] [r] ↔
      (∀ k < r.length, t.readByte (0x200 + 8 * i + k) = r.getD k 0) ∧
      ∀ off, (∀ k < r.length, off ≠ 0x200 + 8 * i + k) → t.readByte off = s.readByte off := by
  have hsingle : ∀ {α : Type} (x y : α) (j : Nat), [x][j]? = some y ↔ j = 0 ∧ x = y := fun x y j => by
    rw [List.getElem?_singleton, Option.ite_none_right_eq_some, Option.some.injEq]
  simp only [KeepsReplies, hsingle]
  refine and_congr ⟨fun h k hk => h 0 i r ⟨rfl, rfl⟩ ⟨rfl, rfl⟩ k hk, ?_⟩
    ⟨fun h off hoff => h off ?_, fun h off hoff => h off (hoff 0 i r ⟨rfl, rfl⟩ ⟨rfl, rfl⟩)⟩
  · rintro h j i' r' ⟨-, rfl⟩ ⟨-, rfl⟩
    exact h
  · rintro j i' r' ⟨-, rfl⟩ ⟨-, rfl⟩
    exact hoff

/-- A row stored, as `KeepsReplies` says it of one target. -/
theorem keepsReplies_writeBytes {s : State} {i : Nat} {r : List Byte} (hi : i < s.params.nSlaves)
    (hlen : r.length ≤ 8) : KeepsReplies s (s.writeBytes (0x200 + 8 * i) r) [i] [r] := by
  have hread := fun a => readByte_writeBytes s (0x200 + 8 * i) a r fun k hk =>
    byteExists_rxBuf hi (hk.trans_le hlen)
  refine keepsReplies_single_iff.2 ⟨fun k hk => ?_, fun off hoff => ?_⟩
  · rw [hread, if_pos (by omega), Nat.add_sub_cancel_left]
  · rw [hread, if_neg]
    rintro ⟨hlow, hhigh⟩
    exact hoff (off - (0x200 + 8 * i)) (by omega) (by omega)

theorem keepsReplies_bracketsRun {s : State} {out : List Byte} {targets : List Nat}
    (ht : ∀ i ∈ targets, i < s.params.nSlaves) (hnodup : targets.Nodup) (hlen : out.length ≤ 8) :
    KeepsReplies s (bracketsRun s out true targets).1 targets (bracketsRun s out true targets).2 := by
  have hlengths := bracketsRun_lengths s out true targets
  refine ⟨fun j i r hj hr k hk => ?_, fun off hoff => ?_⟩
  · rw [length_of_reply hlengths (List.mem_of_getElem? hr)] at hk
    exact readByte_bracketsRun_row s out targets ht hlen hnodup j i r hj hr k hk
  · refine readByte_bracketsRun_other s out true targets off ht hlen fun _ i hi k hk => ?_
    obtain ⟨j, r, hj, hr, hrlen⟩ := reply_of_target hlengths hi
    exact hoff j i r hj hr k (hrlen.symm ▸ hk)

/-- A later state that reads the same keeps the replies too. -/
theorem keepsReplies_congr {s t u : State} {targets : List Nat} {replies : List (List Byte)}
    (h : KeepsReplies s t targets replies) (hread : ∀ off, u.readByte off = t.readByte off) :
    KeepsReplies s u targets replies := by
  obtain ⟨hrows, hothers⟩ := h
  exact ⟨fun j i r hj hr k hk => (hread _).trans (hrows j i r hj hr k hk),
    fun off hoff => (hread off).trans (hothers off hoff)⟩

/-! ## The bytes of a transfer -/

theorem txBytes_length (s : State) (n : Nat) : (txBytes s n).length = n := by
  rw [txBytes, List.length_map, List.length_range]

theorem goodCount_iff (n : Nat) : goodCount n = true ↔ 1 ≤ n ∧ n ≤ 8 := by
  rw [goodCount, Bool.and_eq_true, decide_eq_true_eq, decide_eq_true_eq]

/-- The kept exchanges of a rule, as those of its list of bytes. -/
theorem exchangeAll_eq_tierSteps (out : Nat → Byte) (i n : Nat) :
    exchangeAll out i n = tierSteps i ((List.range n).map out) true :=
  exchangeAll_eq out i n

theorem exchangeAll_txBuf (s : State) (i n : Nat) :
    exchangeAll s.txBuf i n = tierSteps i (txBytes s n) true :=
  exchangeAll_eq_tierSteps s.txBuf i n

/-- A run of exchanges leaves the buffers, the pins and the bracket alone. -/
theorem exchanges_keeps (s : State) (out : List Byte) :
    (exchanges s out).1.params = s.params ∧ (exchanges s out).1.mem = s.mem ∧
      (exchanges s out).1.bracket = s.bracket ∧ (exchanges s out).1.cs = s.cs ∧
      (exchanges s out).1.muxL = s.muxL ∧ (exchanges s out).1.muxU = s.muxU ∧
      (exchanges s out).1.settledAt = s.settledAt := by
  rw [exchanges_frame]
  exact ⟨rfl, rfl, rfl, rfl, rfl, rfl, rfl⟩

/-- The kept exchanges in the open bracket, then the result. -/
theorem drain_kept_result {s : State} (h : Idle s) (op : Instr) (i : Nat) (out : List Byte)
    (r0 r1 : Nat) :
    drain (s.runningAt op (tierSteps i out true ++ [.result (toHalf r0) (toHalf r1)]) {}) =
      ended ((exchanges s out).1.writeBytes (0x200 + 8 * i) (exchanges s out).2) r0 r1 := by
  have hkept := transferFrame_trans (exchanges_transferFrame s out)
    (writeBytes_transferFrame _ (0x200 + 8 * i) (exchanges s out).2)
  rw [tierSteps, if_pos rfl, drain_exchanges_kept]
  exact drain_lastResult (idle_of_transferFrame hkept h) op _ r0 r1

/-- Settles O32: the two refusals, and the run of exchanges kept in the open bracket's row. -/
theorem arrayTransferInABracket : Obligations.ArrayTransferInABracket := by
  intro s n _ h
  have hsteps : stepsOf (.xfern n) s = stepsXfern n s := rfl
  refine ⟨fun hclosed => ?_, fun i hopen hi => ⟨fun hbad => ?_, fun hlow hhigh => ?_⟩⟩
  · exact exec_raise h (by rw [hsteps, stepsXfern, hclosed]; rfl)
  · have hcount : ¬ goodCount n = true := by
      rw [goodCount_iff]
      omega
    exact exec_raise h (by simp only [hsteps, stepsXfern, hopen, if_neg hcount])
  · have htodo : stepsOf (.xfern n) s =
        tierSteps i (txBytes s n) true ++ [.result (toHalf n) (toHalf 0)] := by
      simp only [hsteps, stepsXfern, hopen, if_pos ((goodCount_iff n).2 ⟨hlow, hhigh⟩),
        exchangeAll_txBuf]
      rfl
    have hlen : (exchanges s (txBytes s n)).2.length = n := by rw [exchanges_length, txBytes_length]
    obtain ⟨hparams, hmem, hbracket, hcs, hmuxL, hmuxU, hsettled⟩ := exchanges_keeps s (txBytes s n)
    have hspi := (writeBytes_sameSpi (exchanges s (txBytes s n)).1 (0x200 + 8 * i)
      (exchanges s (txBytes s n)).2).trans (ended_sameSpi _ n 0)
    have hkept : KeepsReplies (exchanges s (txBytes s n)).1 _ [i] [(exchanges s (txBytes s n)).2] :=
      keepsReplies_writeBytes (hparams ▸ hi) (hlen.trans_le hhigh)
    have htime := exchanges_time s (txBytes s n)
    rw [txBytes_length] at htime
    refine ⟨_, _, by rw [exec_of_steps h htodo (by simp), drain_kept_result h], ?_, rfl,
      hspi.bracket.trans hbracket, hspi.cs.trans hcs, hspi.muxL.trans hmuxL, hspi.muxU.trans hmuxU,
      hspi.settledAt.trans hsettled, rfl, hspi, hlen, hspi.bus.trans (exchanges_bus s _), ?_,
      fun j hj => ?_, hspi.now ▸ htime, rfl, rfl⟩
    · exact transferFrame_ended (transferFrame_trans (exchanges_transferFrame s _)
        (writeBytes_transferFrame _ _ _)) n 0
    · obtain ⟨hrows, hothers⟩ := keepsReplies_congr hkept (readByte_ended _ n 0)
      exact ⟨hrows, fun off hoff => (hothers off hoff).trans
        (readByte_congr s _ hmem hparams off)⟩
    · rw [hspi.peers]
      exact exchanges_others s i j (txBytes s n) hopen hj

/-! ## The operations of section 3 -/

/-- The length check of R109 as a step: a refused length is raised. -/
def checkSteps : Option Nat → List Micro
  | none => []
  | some n => [.raise .badArg (toHalf n)]

theorem checkCount_eq (n : Nat) : checkCount n = checkSteps (badCount n) := by
  rw [checkCount, badCount]
  by_cases hn : 1 ≤ n ∧ n ≤ 8
  · rw [if_pos hn, if_pos ((goodCount_iff n).2 hn), checkSteps]
  · rw [if_neg hn, if_neg (hn ∘ (goodCount_iff n).1), checkSteps]

theorem badCount_eq_none_iff (n : Nat) : badCount n = none ↔ 1 ≤ n ∧ n ≤ 8 := by
  rw [badCount]
  split <;> simp_all

section
variable {s : State} {a : Byte} {bad : Option Nat} {tier : Nat → List Micro} {outcome : Nat → Micro}

theorem bracketed_opened (hopen : s.bracket ≠ .closed) (check : List Micro) :
    bracketed a check tier outcome s = [.raise .nest (toHalf a.toNat)] := by
  rw [bracketed, if_pos (isOpen_of_opened hopen), zext_eq]
  rfl

theorem bracketed_badLength (hclosed : s.bracket = .closed) {n : Nat} (hbad : bad = some n) :
    bracketed a (checkSteps bad) tier outcome s = [.raise .badArg (toHalf n)] := by
  rw [bracketed, if_neg (not_isOpen_of_closed hclosed), hbad, checkSteps, if_pos (by simp)]

theorem bracketed_unknown (hclosed : s.bracket = .closed) (hbad : bad = none) (ha : Unknown s a) :
    bracketed a (checkSteps bad) tier outcome s = [.raise .unknownId (toHalf a.toNat)] := by
  rw [bracketed, if_neg (not_isOpen_of_closed hclosed), hbad, if_neg (by simp [checkSteps]),
    targets_unknown s a ha, zext_eq]
  rfl

theorem bracketed_known (hclosed : s.bracket = .closed) (hbad : bad = none) {targets : List Nat}
    (ht : s.targets a = some targets) : bracketed a (checkSteps bad) tier outcome s =
      bracketAll tier targets ++ [outcome targets.length] := by
  rw [bracketed, if_neg (not_isOpen_of_closed hclosed), hbad, if_neg (by simp [checkSteps]), ht]

end

/-- The last step of an operation ends it with this `RESULT`, the local replies being those of the last
bracket. -/
def GivesResult (op : Instr) (last : Micro) (replies : List (List Byte)) (result : Nat × Nat) : Prop :=
  ∀ (u : State) (loc : Locals), Idle u → loc.replies = lastReplies [] replies →
    drain (u.runningAt op [last] loc) = ended u result.1 result.2

/-- What an operation of section 3 chooses besides its operand: the length check, the bytes, whether the
replies are kept, and the step that gives `RESULT`. -/
structure TierOf (op : Instr) (a : Byte) (bad : Option Nat) (out : State → List Byte) (keep : Bool)
    (outcome : Nat → Micro) (result : List Nat → List (List Byte) → Nat × Nat) : Prop where
  steps : ∀ s, stepsOf op s =
    bracketed a (checkSteps bad) (fun i => tierSteps i (out s) keep) outcome s
  short : bad = none → ∀ s, (out s).length ≤ 8
  outcome_eq : ∀ s targets replies, Targets s a targets →
    replies.map List.length = (targets.map fun _ => (out s).length) →
    GivesResult op (outcome targets.length) replies (result targets replies)

section
variable {op : Instr} {a : Byte} {bad : Option Nat} {out : State → List Byte} {keep : Bool}
  {outcome : Nat → Micro} {result : List Nat → List (List Byte) → Nat × Nat}

/-- On an idle block an operation of section 3 is one bracket on each target, then its result. -/
theorem exec_tier (htier : TierOf op a bad out keep outcome result) {s : State} (h : Idle s)
    (hclosed : s.bracket = .closed) (hbad : bad = none) {targets : List Nat}
    (ht : Targets s a targets) :
    exec op s = .next (ended (bracketsRun s (out s) keep targets).1
      (result targets (bracketsRun s (out s) keep targets).2).1
      (result targets (bracketsRun s (out s) keep targets).2).2) := by
  have hsteps := (htier.steps s).trans (bracketed_known hclosed hbad (targets_known s a targets ht).1)
  rw [exec_of_steps h hsteps (by simp), drain_bracketAll _ _ _ _ _ _ _ rfl]
  exact congrArg _ (htier.outcome_eq s targets _ ht (bracketsRun_lengths s (out s) keep targets) _ _
    (idle_of_transferFrame (bracketsRun_transferFrame s _ _ _) h) rfl)

/-- Every operation of section 3 has the form of R109. -/
theorem runsBrackets_of_tier (htier : TierOf op a bad out keep outcome result) :
    RunsBrackets op a bad out keep result := by
  intro s h
  refine ⟨fun hopen => ?_, fun hclosed => ⟨fun n hbad => ?_, fun hbad => ⟨fun ha => ?_,
    fun targets ht => ?_⟩⟩⟩
  · exact exec_raise h ((htier.steps s).trans (bracketed_opened hopen _))
  · exact exec_raise h ((htier.steps s).trans (bracketed_badLength hclosed hbad))
  · exact exec_raise h ((htier.steps s).trans (bracketed_unknown hclosed hbad ha))
  · obtain ⟨-, hbelow, hnodup⟩ := targets_known s a targets ht
    obtain ⟨hspi, hreplies⟩ := bracketsRun_sameSpi s (out s) keep targets
    refine ⟨_, _, exec_tier htier h hclosed hbad ht,
      transferFrame_ended (bracketsRun_transferFrame s _ _ _) _ _, rfl, ?_, ?_, rfl, rfl⟩
    · rw [hreplies]
      exact brackets_of_sameSpi (hspi.trans (ended_sameSpi _ _ _))
    · cases keep with
      | true =>
        exact keepsReplies_congr (keepsReplies_bracketsRun hbelow hnodup (htier.short hbad s))
          (readByte_ended _ _ _)
      | false =>
        exact fun off => (readByte_ended _ _ _ off).trans (readByte_bracketsRun_other s _ false targets
          off hbelow (htier.short hbad s) nofun)

end

/-! ## The three results -/

section
variable (op : Instr) (targets : List Nat) (replies : List (List Byte))

theorem givesResult_reached :
    GivesResult op (reached targets.length) replies (countOf targets replies) :=
  fun _ loc h _ => drain_lastResult h op loc targets.length 0

theorem givesResult_reachedBytes (n : Nat) :
    GivesResult op (reachedBytes n targets.length) replies (countAndLength n targets replies) :=
  fun _ loc h _ => drain_lastResult h op loc targets.length n

variable {op targets replies} {s : State} {a : Byte} {n : Nat}

theorem single_of_targets (ht : Targets s a targets) (ha : a ≠ 255) : targets.length = 1 := by
  rcases ht with ⟨hall, -⟩ | ⟨-, i, -, -, -, rfl⟩
  · exact absurd hall ha
  · rfl

/-- A read gives the number reached for `ALL`, and the one target's reply otherwise (log 13). -/
theorem givesResult_replyOr {single : Micro} (ht : Targets s a targets)
    (hlen : replies.map List.length = targets.map fun _ => n)
    (hsingle : ∀ r : List Byte, r.length = n → GivesResult op single [r] (wordAt r 0, 0)) :
    GivesResult op (replyOr a single targets.length) replies (replyOf a targets replies) := by
  by_cases ha : a = 255
  · rw [replyOr, if_pos ha, replyOf, if_pos ha]
    exact givesResult_reached op targets replies
  · obtain ⟨r, rfl, hr⟩ := reply_of_single hlen (single_of_targets ht ha)
    rw [replyOr, if_neg ha, replyOf, if_neg ha]
    exact hsingle r hr

theorem givesResult_reply8 (r : List Byte) (hr : r.length = 1) :
    GivesResult op .resultReply8 [r] (wordAt r 0, 0) := by
  intro u loc h hloc
  replace hloc : loc.replies = r := hloc
  rw [drain_lastReply8 h op loc (hloc ▸ hr), hloc]

theorem givesResult_reply16 (r : List Byte) (_ : r.length = 2) :
    GivesResult op .resultReply16 [r] (wordAt r 0, 0) := by
  intro u loc h hloc
  replace hloc : loc.replies = r := hloc
  rw [drain_lastReply16 h op loc, hloc]

end

/-! ## The nine operations -/

section
variable (a b : Byte) (w : Half) (n : Nat)

theorem tier_swr8 : TierOf (.swr8 a b) a none (fun _ => [b]) false reached countOf where
  steps _ := rfl
  short _ _ := by simp
  outcome_eq _ targets replies _ _ := givesResult_reached _ targets replies

theorem tier_swr16 : TierOf (.swr16 a w) a none (fun _ => [lowByte w, highByte w]) false reached
    countOf where
  steps _ := by
    rw [← lo_eq, ← hi_eq]
    rfl
  short _ _ := by simp
  outcome_eq _ targets replies _ _ := givesResult_reached _ targets replies

theorem txBytes_short (h : badCount n = none) (s : State) : (txBytes s n).length ≤ 8 := by
  rw [txBytes_length]
  exact ((badCount_eq_none_iff n).1 h).2

theorem tier_swrn : TierOf (.swrn a n) a (badCount n) (fun s => txBytes s n) false (reachedBytes n)
    (countAndLength n) where
  steps s := by
    have htier : (fun _ : Nat => (List.range n).map fun k => Micro.exchange (s.txBuf k) .discard) =
        fun i => tierSteps i (txBytes s n) false := by
      funext i
      rw [tierSteps, if_neg Bool.false_ne_true, txBytes, List.map_map]
      rfl
    rw [stepsOf, stepsSwrn, checkCount_eq, htier]
  short := txBytes_short n
  outcome_eq _ targets replies _ _ := givesResult_reachedBytes _ targets replies n

theorem tier_srd8 : TierOf (.srd8 a) a none (fun _ => [0]) true (replyOr a .resultReply8)
    (replyOf a) where
  steps _ := rfl
  short _ _ := by simp
  outcome_eq _ _ _ ht hlen := givesResult_replyOr ht hlen givesResult_reply8

theorem tier_srd16 : TierOf (.srd16 a) a none (fun _ => [0, 0]) true (replyOr a .resultReply16)
    (replyOf a) where
  steps _ := rfl
  short _ _ := by simp
  outcome_eq _ _ _ ht hlen := givesResult_replyOr ht hlen givesResult_reply16

theorem tier_srdn : TierOf (.srdn a n) a (badCount n) (fun _ => List.replicate n 0) true
    (reachedBytes n) (countAndLength n) where
  steps s := by
    simp only [stepsOf, stepsSrdn, checkCount_eq, exchangeAll_eq_tierSteps, List.map_const',
      List.length_range]
  short h _ := by
    rw [List.length_replicate]
    exact ((badCount_eq_none_iff n).1 h).2
  outcome_eq _ targets replies _ _ := givesResult_reachedBytes _ targets replies n

theorem tier_srw8 : TierOf (.srw8 a b) a none (fun _ => [b]) true (replyOr a .resultReply8)
    (replyOf a) where
  steps _ := rfl
  short _ _ := by simp
  outcome_eq _ _ _ ht hlen := givesResult_replyOr ht hlen givesResult_reply8

theorem tier_srw16 : TierOf (.srw16 a w) a none (fun _ => [lowByte w, highByte w]) true
    (replyOr a .resultReply16) (replyOf a) where
  steps _ := by
    rw [← lo_eq, ← hi_eq]
    rfl
  short _ _ := by simp
  outcome_eq _ _ _ ht hlen := givesResult_replyOr ht hlen givesResult_reply16

theorem tier_srwn : TierOf (.srwn a n) a (badCount n) (fun s => txBytes s n) true (reachedBytes n)
    (countAndLength n) where
  steps s := by simp only [stepsOf, stepsSrwn, checkCount_eq, exchangeAll_txBuf]
  short := txBytes_short n
  outcome_eq _ targets replies _ _ := givesResult_reachedBytes _ targets replies n

end

/-- Settles O33: the three writes are tiers that drop the replies. -/
theorem bracketedWrites : Obligations.BracketedWrites :=
  ⟨fun a b => runsBrackets_of_tier (tier_swr8 a b), fun a w => runsBrackets_of_tier (tier_swr16 a w),
    fun a n _ => runsBrackets_of_tier (tier_swrn a n)⟩

/-- Settles O34: the three reads are tiers that send zeros and keep the replies. -/
theorem bracketedReads : Obligations.BracketedReads :=
  ⟨fun a => runsBrackets_of_tier (tier_srd8 a), fun a => runsBrackets_of_tier (tier_srd16 a),
    fun a n _ => runsBrackets_of_tier (tier_srdn a n)⟩

/-- Settles O35: the three exchanges are tiers that send the operand and keep the replies. -/
theorem bracketedExchanges : Obligations.BracketedExchanges :=
  ⟨fun a b => runsBrackets_of_tier (tier_srw8 a b), fun a w => runsBrackets_of_tier (tier_srw16 a w),
    fun a n _ => runsBrackets_of_tier (tier_srwn a n)⟩

end Sys2Proof.Proofs
end

section
/-! SUPPORT. `TXN` run on an idle block (44_spi_transport.md R119, R120): the record of a slave as its four
halves, what one transaction leaves in the buffers, and one transaction on each target. -/

namespace Sys2Proof.Proofs

open Sys2Proof.Machine Sys2Proof.Safety

/-! ## The halves of a record -/

section
variable (s : State) (v : Half)

theorem readByte_writeHalf_other {off a : Nat} (h : a < off ∨ off + 2 ≤ a) :
    (s.writeHalf off v).readByte a = s.readByte a := by
  rw [State.writeHalf, readByte_writeByte_other _ _ _ _ (by omega),
    readByte_writeByte_other _ _ _ _ (by omega)]

theorem halfAt_writeHalf_other {off a : Nat} (h : a + 2 ≤ off ∨ off + 2 ≤ a) :
    halfAt (s.writeHalf off v) a = halfAt s a := by
  rw [halfAt, readByte_writeHalf_other s v (by omega), readByte_writeHalf_other s v (by omega), halfAt]

theorem halfAt_writeHalf_same {off : Nat} (hlow : byteExists s.params off = true)
    (hhigh : byteExists s.params (off + 1) = true) : halfAt (s.writeHalf off v) off = v.toNat := by
  rw [State.writeHalf, halfAt, readByte_writeByte_other _ _ _ _ (by omega),
    readByte_writeByte_same s _ _ hlow, readByte_writeByte_same (s.writeByte off (lo v)) _ _ hhigh,
    lo_eq, hi_eq, toNat_lowByte, toNat_highByte]
  omega

end

theorem byteExists_slaveRec {p : Params} {i k : Nat} (hi : i < p.nSlaves) (hk : k < 8) :
    byteExists p (0x600 + 8 * i + k) = true := by
  have hrow : inRange slaveRecBase (8 * p.nSlaves) (0x600 + 8 * i + k) = true := by
    rw [inRange, Bool.and_eq_true, decide_eq_true_eq, decide_eq_true_eq, slaveRecBase]
    omega
  simp [byteExists, hrow]

/-- Half `f` of `SLAVEREC[i]` (10_state.md R32): position 1, position 2, joint, commanded value. -/
def recordHalf (s : State) (i f : Nat) : Nat := halfAt s (0x600 + 2 * f + 8 * i)

/-- Half `f` of `SLAVEREC[i]` stored. -/
def setRecordHalf (i f : Nat) (v : Half) (s : State) : State := s.writeHalf (0x600 + 8 * i + 2 * f) v

theorem recordHalf_setRecordHalf {s : State} {i f g : Nat} (v : Half) (hi : i < s.params.nSlaves)
    (hf : f < 4) :
    recordHalf (setRecordHalf i f v s) i g = if g = f then v.toNat else recordHalf s i g := by
  unfold recordHalf setRecordHalf
  split
  · rename_i hgf
    subst hgf
    rw [Nat.add_right_comm 0x600 (2 * g)]
    have hlow := byteExists_slaveRec (k := 2 * g) hi (by omega)
    have hhigh := byteExists_slaveRec (k := 2 * g + 1) hi (by omega)
    exact halfAt_writeHalf_same s v hlow hhigh
  · exact halfAt_writeHalf_other s v (by omega)

theorem readByte_setRecordHalf_other {s : State} {i f a : Nat} (v : Half) (hf : f < 4)
    (ha : ∀ k < 8, a ≠ 0x600 + 8 * i + k) : (setRecordHalf i f v s).readByte a = s.readByte a := by
  refine readByte_writeHalf_other s v ?_
  have hlow := ha (2 * f) (by omega)
  have hhigh := ha (2 * f + 1) (by omega)
  omega

theorem setRecordHalf_params (i f : Nat) (v : Half) (s : State) :
    (setRecordHalf i f v s).params = s.params := by
  rw [setRecordHalf, State.writeHalf, State.writeByte_params, State.writeByte_params]

/-! ## `TxnUpdate` -/

/-- The commanded value joins the record for `command_id` 1 (R120). -/
def recordCommand (i : Nat) (c : Byte) (v : Half) (s : State) : State :=
  if c = 1 then setRecordHalf i 3 v s else s

/-- The sensor values that `sensor_id` asked for join the record (R120). -/
def recordSensors (i : Nat) (d : Byte) (r : List Byte) (s : State) : State :=
  if d = 1 then setRecordHalf i 0 (replyWord r 2) s
  else if d = 2 then setRecordHalf i 1 (replyWord r 2) s
  else if d = 3 then setRecordHalf i 2 (replyWord r 2) s
  else if d = 255 then
    setRecordHalf i 2 (replyWord r 6) (setRecordHalf i 1 (replyWord r 4)
      (setRecordHalf i 0 (replyWord r 2) s))
  else s

theorem updateRecord_eq (s : State) (i : Nat) (c d : Byte) (v : Half) (r : List Byte) :
    s.updateRecord i c d v r = recordSensors i d r (recordCommand i c v s) := rfl

theorem toNat_replyWord (r : List Byte) (k : Nat) : (replyWord r k).toNat = wordAt r k := by
  have hlow := (r.getD k 0).isLt
  have hhigh := (r.getD (k + 1) 0).isLt
  rw [replyWord_eq, BitVec.toNat_ofNat, wordAt]
  omega

section
variable {s : State} {i : Nat} (hi : i < s.params.nSlaves)
include hi

theorem recordHalf_recordCommand (c : Byte) (v : Half) :
    recordHalf (recordCommand i c v s) i 3 = (if c = 1 then v.toNat else recordHalf s i 3) ∧
      ∀ f < 3, recordHalf (recordCommand i c v s) i f = recordHalf s i f := by
  unfold recordCommand
  split
  · refine ⟨?_, fun f hf => ?_⟩
    · rw [recordHalf_setRecordHalf v hi (by decide), if_pos rfl]
    · rw [recordHalf_setRecordHalf v hi (by decide), if_neg hf.ne]
  · exact ⟨rfl, fun _ _ => rfl⟩

theorem recordHalf_setReply {f : Nat} (hf : f < 4) (r : List Byte) (k g : Nat) :
    recordHalf (setRecordHalf i f (replyWord r k) s) i g =
      if g = f then wordAt r k else recordHalf s i g := by
  rw [recordHalf_setRecordHalf _ hi hf, toNat_replyWord]

/-- `sensor_id` 255 stores all three sensor values. -/
theorem recordHalf_setReplies (r : List Byte) (g : Nat) :
    recordHalf (setRecordHalf i 2 (replyWord r 6) (setRecordHalf i 1 (replyWord r 4)
      (setRecordHalf i 0 (replyWord r 2) s))) i g =
    if g = 2 then wordAt r 6 else if g = 1 then wordAt r 4 else if g = 0 then wordAt r 2
      else recordHalf s i g := by
  have h0 : i < (setRecordHalf i 0 (replyWord r 2) s).params.nSlaves := by
    rwa [setRecordHalf_params]
  have h1 : i < (setRecordHalf i 1 (replyWord r 4)
      (setRecordHalf i 0 (replyWord r 2) s)).params.nSlaves := by
    rwa [setRecordHalf_params]
  rw [recordHalf_setReply h1 (by decide), recordHalf_setReply h0 (by decide),
    recordHalf_setReply hi (by decide)]

/-- Each half after the sensor values: those asked for are replies, the commanded value stays. -/
theorem recordHalf_recordSensors (d : Byte) (r : List Byte) :
    recordHalf (recordSensors i d r s) i 0 =
      (if d = 1 ∨ d = 255 then wordAt r 2 else recordHalf s i 0) ∧
    recordHalf (recordSensors i d r s) i 1 =
      (if d = 2 then wordAt r 2 else if d = 255 then wordAt r 4 else recordHalf s i 1) ∧
    recordHalf (recordSensors i d r s) i 2 =
      (if d = 3 then wordAt r 2 else if d = 255 then wordAt r 6 else recordHalf s i 2) ∧
    recordHalf (recordSensors i d r s) i 3 = recordHalf s i 3 := by
  unfold recordSensors
  by_cases h1 : d = 1
  · subst h1
    simp [recordHalf_setReply hi]
  by_cases h2 : d = 2
  · subst h2
    simp [recordHalf_setReply hi]
  by_cases h3 : d = 3
  · subst h3
    simp [recordHalf_setReply hi]
  by_cases h255 : d = 255
  · subst h255
    simp [recordHalf_setReplies hi]
  · simp only [h1, h2, h3, h255, if_false, or_self, and_self]

/-- `TxnUpdate` is what `RecordAfter` says (R120). -/
theorem recordAfter_updateRecord (c d : Byte) (v : Half) (r : List Byte) :
    RecordAfter s (s.updateRecord i c d v r) i c d v r := by
  obtain ⟨hvalue, hother⟩ := recordHalf_recordCommand hi c v
  have hi' : i < (recordCommand i c v s).params.nSlaves := by
    unfold recordCommand
    split
    · exact hi
    · exact hi
  obtain ⟨h0, h1, h2, h3⟩ := recordHalf_recordSensors hi' d r
  rw [hother _ (by decide)] at h0 h1 h2
  exact ⟨h0, h1, h2, h3.trans hvalue⟩

end

theorem readByte_updateRecord_other (s : State) {i a : Nat} (c d : Byte) (v : Half) (r : List Byte)
    (ha : ∀ k < 8, a ≠ 0x600 + 8 * i + k) : (s.updateRecord i c d v r).readByte a = s.readByte a := by
  have hset : ∀ (t : State) (f : Nat) (x : Half), f < 4 →
      (setRecordHalf i f x t).readByte a = t.readByte a :=
    fun _ _ x hf => readByte_setRecordHalf_other x hf ha
  have hcommand : (recordCommand i c v s).readByte a = s.readByte a := by
    unfold recordCommand
    split
    · exact hset _ _ _ (by decide)
    · rfl
  rw [updateRecord_eq, ← hcommand]
  unfold recordSensors
  (repeat' split) <;> simp [hset]

theorem updateRecord_transferFrame (s : State) (i : Nat) (c d : Byte) (v : Half) (r : List Byte) :
    TransferFrame s (s.updateRecord i c d v r) :=
  updateRecord_induct (TransferFrame s) (fun _ _ _ _ h => transferFrame_trans h rfl) s rfl i c d v r

/-! ## One transaction -/

/-- `SLAVEREC[i]` reads the same in two states. -/
def SameRecord (i : Nat) (s t : State) : Prop :=
  ∀ k < 8, t.readByte (0x600 + 8 * i + k) = s.readByte (0x600 + 8 * i + k)

theorem recordHalf_of_sameRecord {i f : Nat} {s t : State} (h : SameRecord i s t) (hf : f < 4) :
    recordHalf t i f = recordHalf s i f := by
  unfold recordHalf halfAt
  rw [Nat.add_right_comm 0x600, Nat.add_assoc _ (2 * f) 1, h _ (by omega), h _ (by omega)]

/-- `RecordAfter` in the halves of the record. -/
theorem recordAfter_iff {s t : State} {i : Nat} {c d : Byte} {v : Half} {r : List Byte} :
    RecordAfter s t i c d v r ↔
      recordHalf t i 0 = (if d = 1 ∨ d = 255 then wordAt r 2 else recordHalf s i 0) ∧
      recordHalf t i 1 =
        (if d = 2 then wordAt r 2 else if d = 255 then wordAt r 4 else recordHalf s i 1) ∧
      recordHalf t i 2 =
        (if d = 3 then wordAt r 2 else if d = 255 then wordAt r 6 else recordHalf s i 2) ∧
      recordHalf t i 3 = (if c = 1 then v.toNat else recordHalf s i 3) := Iff.rfl

/-- `RecordAfter` speaks of one record, before and after. -/
theorem recordAfter_congr {s s' t t' : State} {i : Nat} {c d : Byte} {v : Half} {r : List Byte}
    (hs : SameRecord i s s') (ht : SameRecord i t t') (h : RecordAfter s t i c d v r) :
    RecordAfter s' t' i c d v r := by
  rw [recordAfter_iff] at h ⊢
  simpa only [recordHalf_of_sameRecord hs, recordHalf_of_sameRecord ht, Nat.reduceLT] using h

/-- The offset is in neither row of slave index `i`: not in its record, nor in the first `n` bytes of
its row of `RXBUF`. -/
def OffRows (i n off : Nat) : Prop :=
  ∀ k < 8, off ≠ 0x600 + 8 * i + k ∧ (k < n → off ≠ 0x200 + 8 * i + k)

/-- What a transaction on slave index `i` with the replies `r` leaves in the buffers (R119, R120). -/
structure TransactionLeaves (s t : State) (i : Nat) (c d : Byte) (v : Half) (r : List Byte) : Prop where
  row : ∀ k < r.length, t.readByte (0x200 + 8 * i + k) = r.getD k 0
  record : RecordAfter s t i c d v r

section
variable {s : State} {c d : Byte} {v : Half} {i : Nat}

theorem txnBytes_eq (c d : Byte) (v : Half) : txnBytes c d v = masterBytes c d v := by
  rw [txnBytes, masterBytes, lo_eq, hi_eq]

theorem masterBytes_short (c d : Byte) (v : Half) : (masterBytes c d v).length ≤ 8 := by
  unfold masterBytes
  split
  · exact le_refl 8
  · exact Nat.le_add_left 4 4

theorem transactionRun_transferFrame (s : State) (c d : Byte) (v : Half) (i : Nat) :
    TransferFrame s (transactionRun s c d v i).1 :=
  transferFrame_trans (transferFrame_trans (bracketsRun_transferFrame s (txnBytes c d v) false [i])
    (writeBytes_transferFrame _ _ _)) (updateRecord_transferFrame _ _ _ _ _ _)

theorem transactionRun_replies_short (s : State) (c d : Byte) (v : Half) (i : Nat) :
    (transactionRun s c d v i).2.length ≤ 8 := by
  rw [transactionRun_length, txnBytes_eq]
  exact masterBytes_short c d v

/-- The state of a transaction once its replies are in `RXBUF`, before `TxnUpdate` (R119). -/
def transactionKept (s : State) (c d : Byte) (v : Half) (i : Nat) : State :=
  (bracketRun s i (txnBytes c d v) false).1.writeBytes (rxBufBase + 8 * i) (transactionRun s c d v i).2

theorem transactionRun_fst (s : State) (c d : Byte) (v : Half) (i : Nat) :
    (transactionRun s c d v i).1 =
      (transactionKept s c d v i).updateRecord i c d v (transactionRun s c d v i).2 := by
  rw [transactionKept, transactionRun]

theorem transactionKept_params (s : State) (c d : Byte) (v : Half) (i : Nat) :
    (transactionKept s c d v i).params = s.params :=
  (params_of_transferFrame (writeBytes_transferFrame _ _ _)).trans
    (params_of_transferFrame (bracketsRun_transferFrame s (txnBytes c d v) false [i]))

theorem transactionKept_keeps (hi : i < s.params.nSlaves) :
    KeepsReplies s (transactionKept s c d v i) [i] [(transactionRun s c d v i).2] := by
  have hbracket : ∀ a, (bracketRun s i (txnBytes c d v) false).1.readByte a = s.readByte a := by
    intro a
    rw [readByte_bracketRun s i _ false a hi (txnBytes_eq c d v ▸ masterBytes_short c d v),
      if_neg (by simp)]
  have hparams : (bracketRun s i (txnBytes c d v) false).1.params = s.params :=
    params_of_transferFrame (bracketsRun_transferFrame s (txnBytes c d v) false [i])
  obtain ⟨hrows, hothers⟩ := keepsReplies_writeBytes (hparams ▸ hi)
    (transactionRun_replies_short s c d v i)
  exact ⟨hrows, fun off hoff => (hothers off hoff).trans (hbracket off)⟩

/-- The replies go to the row, then the record is updated from them. -/
theorem transactionRun_buffers (hi : i < s.params.nSlaves) :
    TransactionLeaves s (transactionRun s c d v i).1 i c d v (transactionRun s c d v i).2 ∧
      ∀ off, OffRows i (transactionRun s c d v i).2.length off →
        (transactionRun s c d v i).1.readByte off = s.readByte off := by
  have hshort := transactionRun_replies_short s c d v i
  obtain ⟨hrow, hothers⟩ :=
    keepsReplies_single_iff.1 (transactionKept_keeps (c := c) (d := d) (v := v) hi)
  have hrecord := recordAfter_updateRecord (transactionKept_params s c d v i ▸ hi) c d v
    (transactionRun s c d v i).2
  rw [transactionRun_fst]
  generalize transactionKept s c d v i = u at hrow hothers hrecord ⊢
  refine ⟨⟨fun k hk => ?_, recordAfter_congr (fun k hk => ?_) (fun _ _ => rfl) hrecord⟩,
    fun off hoff => ?_⟩
  · rw [readByte_updateRecord_other u c d v _ (by omega), hrow k hk]
  · exact (hothers _ (by omega)).symm
  · rw [readByte_updateRecord_other u c d v _ fun k hk => (hoff k hk).1,
      hothers off fun k hk => (hoff k (by omega)).2 hk]

end

/-! ## One transaction on each target -/

/-- The state after one transaction on each target, and the replies of each. -/
def transactionsRun (s : State) (c d : Byte) (v : Half) : List Nat → State × List (List Byte)
  | [] => (s, [])
  | i :: rest =>
    let x := transactionRun s c d v i
    let r := transactionsRun x.1 c d v rest
    (r.1, x.2 :: r.2)

section
variable {s : State} {c d : Byte} {v : Half}

theorem drain_transactions (s : State) (op : Instr) (rest : List Micro) (loc : Locals) (c d : Byte)
    (v : Half) (targets : List Nat) (hown : loc.ownBracket = false) :
    drain (s.runningAt op (targets.flatMap (transactionSteps c d v) ++ rest) loc) =
      drain ((transactionsRun s c d v targets).1.runningAt op rest
        { loc with replies := lastReplies loc.replies (transactionsRun s c d v targets).2 }) := by
  induction targets generalizing s loc with
  | nil => rfl
  | cons i targets ih =>
    rw [List.flatMap_cons, List.append_assoc, drain_transaction, ih _ _ rfl]
    simp only [transactionsRun, lastReplies, List.getLastD_cons, ← hown]

theorem transactionsRun_transferFrame (s : State) (c d : Byte) (v : Half) (targets : List Nat) :
    TransferFrame s (transactionsRun s c d v targets).1 := by
  induction targets generalizing s with
  | nil => rfl
  | cons i targets ih => exact transferFrame_trans (transactionRun_transferFrame s c d v i) (ih _)

/-- The transactions are brackets that send the master bytes. -/
theorem transactionsRun_sameSpi (s : State) (c d : Byte) (v : Half) (targets : List Nat) :
    SameSpi (bracketsOn s (targets.zip (targets.map fun _ => masterBytes c d v))).1
        (transactionsRun s c d v targets).1 ∧
      (transactionsRun s c d v targets).2 =
        (bracketsOn s (targets.zip (targets.map fun _ => masterBytes c d v))).2 := by
  induction targets generalizing s with
  | nil => exact ⟨SameSpi.refl s, rfl⟩
  | cons i targets ih =>
    obtain ⟨hfirst, hfirstReplies⟩ := transactionRun_sameSpi s c d v i
    obtain ⟨hrest, hrestReplies⟩ := ih (transactionRun s c d v i).1
    rw [txnBytes_eq] at hfirst hfirstReplies
    obtain ⟨hafter, hafterReplies⟩ := bracketsOn_sameSpi hfirst
      (targets.zip (targets.map fun _ => masterBytes c d v))
    refine ⟨hafter.trans hrest, ?_⟩
    simp only [transactionsRun, List.map_cons, List.zip_cons_cons, bracketsOn, hfirstReplies,
      hrestReplies, hafterReplies]

theorem transactionsRun_lengths (s : State) (c d : Byte) (v : Half) (targets : List Nat) :
    (transactionsRun s c d v targets).2.map List.length =
      targets.map fun _ => (masterBytes c d v).length := by
  induction targets generalizing s with
  | nil => rfl
  | cons i targets ih =>
    simp only [transactionsRun, List.map_cons, ih, transactionRun_length, txnBytes_eq]

theorem transactionRun_below {targets : List Nat} {i : Nat}
    (ht : ∀ l ∈ i :: targets, l < s.params.nSlaves) :
    ∀ l ∈ targets, l < (transactionRun s c d v i).1.params.nSlaves := by
  rw [params_of_transferFrame (transactionRun_transferFrame s c d v i)]
  exact fun l hl => ht l (List.mem_cons_of_mem i hl)

/-- A byte in no row of a target reads as before. -/
theorem readByte_transactionsRun_other {targets : List Nat} {off : Nat}
    (ht : ∀ i ∈ targets, i < s.params.nSlaves)
    (hoff : ∀ i ∈ targets, OffRows i (masterBytes c d v).length off) :
    (transactionsRun s c d v targets).1.readByte off = s.readByte off := by
  induction targets generalizing s with
  | nil => rfl
  | cons i targets ih =>
    obtain ⟨-, hothers⟩ := transactionRun_buffers (c := c) (d := d) (v := v) (ht i List.mem_cons_self)
    refine (ih (transactionRun_below ht) fun l hl => hoff l (List.mem_cons_of_mem i hl)).trans
      (hothers off ?_)
    rw [transactionRun_length, txnBytes_eq]
    exact hoff i List.mem_cons_self

/-- The rows of one target are in no row of another. -/
theorem offRows_of_ne {i l n k : Nat} (hi : i < 24) (hl : l < 24) (hne : i ≠ l)
    (hk : k < 8) : OffRows l n (0x200 + 8 * i + k) ∧ OffRows l n (0x600 + 8 * i + k) :=
  ⟨fun m hm => by omega, fun m hm => by omega⟩

/-- The rows of a slave index that is no target read as before. -/
theorem readByte_transactionsRun_rows {targets : List Nat} {l k : Nat} (hcount : s.params.nSlaves ≤ 24)
    (hl : l < s.params.nSlaves) (ht : ∀ i ∈ targets, i < s.params.nSlaves) (hmem : l ∉ targets)
    (hk : k < 8) :
    (transactionsRun s c d v targets).1.readByte (0x200 + 8 * l + k) =
        s.readByte (0x200 + 8 * l + k) ∧
      (transactionsRun s c d v targets).1.readByte (0x600 + 8 * l + k) =
        s.readByte (0x600 + 8 * l + k) := by
  have hoff : ∀ i ∈ targets, _ := fun i hi =>
    offRows_of_ne (n := (masterBytes c d v).length) (hl.trans_le hcount) ((ht i hi).trans_le hcount)
      (ne_of_mem_of_not_mem hi hmem).symm hk
  exact ⟨readByte_transactionsRun_other ht fun i hi => (hoff i hi).1,
    readByte_transactionsRun_other ht fun i hi => (hoff i hi).2⟩

/-- Each target's buffers are what its own transaction leaves, since no other one writes its rows. -/
theorem transactionsRun_leaves {targets : List Nat} (hcount : s.params.nSlaves ≤ 24)
    (ht : ∀ i ∈ targets, i < s.params.nSlaves) (hnodup : targets.Nodup) {j i : Nat} {r : List Byte}
    (hj : targets[j]? = some i) (hr : (transactionsRun s c d v targets).2[j]? = some r) :
    TransactionLeaves s (transactionsRun s c d v targets).1 i c d v r := by
  induction targets generalizing s j with
  | nil => cases hj
  | cons l targets ih =>
    have hl := ht l List.mem_cons_self
    have hbelow := transactionRun_below (c := c) (d := d) (v := v) ht
    have hparams := params_of_transferFrame (transactionRun_transferFrame s c d v l)
    obtain ⟨hleaves, hothers⟩ := transactionRun_buffers (c := c) (d := d) (v := v) hl
    obtain ⟨hnotMem, hnodup⟩ := List.nodup_cons.1 hnodup
    cases j with
    | zero =>
      obtain rfl : l = i := Option.some.inj hj
      obtain rfl : (transactionRun s c d v l).2 = r := Option.some.inj hr
      have hshort := transactionRun_replies_short s c d v l
      have hkept : ∀ k < 8, _ := fun k hk => readByte_transactionsRun_rows (c := c) (d := d) (v := v)
        (hparams ▸ hcount) (hparams ▸ hl) hbelow hnotMem hk
      exact ⟨fun k hk => (hkept k (hk.trans_le hshort)).1.trans (hleaves.row k hk),
        recordAfter_congr (fun _ _ => rfl) (fun k hk => (hkept k hk).2) hleaves.record⟩
    | succ j =>
      have hmem : i ∈ targets := List.mem_of_getElem? hj
      have hi := ht i (List.mem_cons_of_mem l hmem)
      obtain ⟨hrow, hrecord⟩ := ih (hparams ▸ hcount) hbelow hnodup hj hr
      refine ⟨hrow, recordAfter_congr (fun k hk => (hothers _ ?_).symm) (fun _ _ => rfl) hrecord⟩
      exact (offRows_of_ne (hi.trans_le hcount) (hl.trans_le hcount)
        (ne_of_mem_of_not_mem hmem hnotMem) hk).2

end

/-! ## The operation -/

/-- `RESULT` of `TXN`: the replies of a single target, else the number of targets (R119; log 13). -/
def txnResult (d : Byte) (targets : List Nat) (replies : List (List Byte)) : Nat × Nat :=
  if targets.length = 1 then
    (wordAt (replies.headD []) 2, if d = 255 then wordAt (replies.headD []) 4 else 0)
  else countOf targets replies

theorem givesResult_txn {op : Instr} {d : Byte} {targets : List Nat} {replies : List (List Byte)}
    {n : Nat} (hlen : replies.map List.length = targets.map fun _ => n) :
    GivesResult op (if targets.length = 1 then .resultTxn (decide (d = 255))
      else reached targets.length) replies (txnResult d targets replies) := by
  unfold txnResult
  by_cases hone : targets.length = 1
  · obtain ⟨r, rfl, -⟩ := reply_of_single hlen hone
    rw [if_pos hone, if_pos hone]
    intro u loc h hloc
    replace hloc : loc.replies = r := hloc
    simp only [drain_lastTxn h, hloc, decide_eq_true_eq, List.headD_cons]
  · rw [if_neg hone, if_neg hone]
    exact givesResult_reached op targets replies

section
variable {s : State} {a : Byte} {v : Half}

theorem stepsTxn_opened (hopen : s.bracket ≠ .closed) :
    stepsOf (.txn a v) s = [.raise .nest (toHalf a.toNat)] := by
  rw [stepsOf, stepsTxn, if_pos (isOpen_of_opened hopen), zext_eq]
  rfl

theorem stepsTxn_unknown (hclosed : s.bracket = .closed) (ha : Unknown s a) :
    stepsOf (.txn a v) s = [.raise .unknownId (toHalf a.toNat)] := by
  rw [stepsOf, stepsTxn, if_neg (not_isOpen_of_closed hclosed), targets_unknown s a ha, zext_eq]
  rfl

theorem stepsTxn_known (hclosed : s.bracket = .closed) {targets : List Nat}
    (ht : s.targets a = some targets) : stepsOf (.txn a v) s =
      targets.flatMap (transactionSteps s.commandId s.sensorId v) ++
        [if targets.length = 1 then .resultTxn (decide (s.sensorId = 255))
          else reached targets.length] := by
  rw [stepsOf, stepsTxn, if_neg (not_isOpen_of_closed hclosed), ht]

/-- On an idle block `TXN` is one transaction on each target, then its result. -/
theorem exec_txn (h : Idle s) (hclosed : s.bracket = .closed) {targets : List Nat}
    (ht : s.targets a = some targets) :
    exec (.txn a v) s = .next (ended (transactionsRun s s.commandId s.sensorId v targets).1
      (txnResult s.sensorId targets (transactionsRun s s.commandId s.sensorId v targets).2).1
      (txnResult s.sensorId targets (transactionsRun s s.commandId s.sensorId v targets).2).2) := by
  rw [exec_of_steps h (stepsTxn_known hclosed ht) (by simp), drain_transactions _ _ _ _ _ _ _ _ rfl]
  exact congrArg _ (givesResult_txn (transactionsRun_lengths s _ _ v targets) _ _
    (idle_of_transferFrame (transactionsRun_transferFrame s _ _ v targets) h) rfl)

end

/-- Settles O36: the two refusals, and one transaction on each target. -/
theorem transactions : Obligations.Transactions := by
  intro s a v h hwf
  refine ⟨fun hopen => exec_raise h (stepsTxn_opened hopen),
    fun hclosed ha => exec_raise h (stepsTxn_unknown hclosed ha), fun hclosed targets ht => ?_⟩
  obtain ⟨hknown, hbelow, hnodup⟩ := targets_known s a targets ht
  obtain ⟨hspi, hreplies⟩ := transactionsRun_sameSpi s s.commandId s.sensorId v targets
  have hlengths := transactionsRun_lengths s s.commandId s.sensorId v targets
  refine ⟨_, (transactionsRun s s.commandId s.sensorId v targets).2, exec_txn h hclosed hknown,
    transferFrame_ended (transactionsRun_transferFrame s _ _ v targets) _ _, rfl, ?_,
    fun j i r hj hr => ?_, fun off hoff => ?_, fun hone => ?_, fun hmany => ?_⟩
  · rw [hreplies]
    exact brackets_of_sameSpi (hspi.trans (ended_sameSpi _ _ _))
  · obtain ⟨hrow, hrecord⟩ := transactionsRun_leaves (nSlaves_le_of_wf hwf) hbelow hnodup hj hr
    rw [length_of_reply hlengths (List.mem_of_getElem? hr)] at hrow
    exact ⟨hrow, hrecord⟩
  · exact (readByte_ended _ _ _ off).trans (readByte_transactionsRun_other hbelow hoff)
  · rw [txnResult, if_pos hone]
    exact ⟨rfl, apply_ite (BitVec.ofNat 16) _ _ _⟩
  · rw [txnResult, if_neg hmany]
    exact ⟨rfl, rfl⟩

end Sys2Proof.Proofs
end

section
/-! SUPPORT. `MIRROR` run on an idle block (45_fanout.md R123): the record of the chosen slot scaled to the
DAC, or the refusal of a slot that holds none. -/

namespace Sys2Proof.Proofs

open Sys2Proof.Machine Sys2Proof.Safety

section
variable {s : State}

theorem toNat_readHalf (s : State) (off : Nat) : (s.readHalf off).toNat = halfAt s off := by
  have hlow := (s.readByte off).isLt
  have hhigh := (s.readByte (off + 1)).isLt
  rw [State.readHalf, half_eq, BitVec.toNat_ofNat, halfAt]
  omega

theorem stepsMirror_empty
    (hslot : (s.readByte 0x400).toNat ≤ s.ctrl.mirrorSlot.toNat ∨ 38 ≤ s.ctrl.mirrorSlot.toNat) :
    stepsOf .mirror s = [.raise .badArg (toHalf s.ctrl.mirrorSlot.toNat)] :=
  if_pos hslot

theorem stepsMirror_record (hcount : s.ctrl.mirrorSlot.toNat < (s.readByte 0x400).toNat)
    (hslot : s.ctrl.mirrorSlot.toNat < 38) :
    stepsOf .mirror s = mirrorSteps (s.readHalf (0x402 + 3 * s.ctrl.mirrorSlot.toNat)) :=
  if_neg (not_or.2 ⟨Nat.not_le.2 hcount, Nat.not_le.2 hslot⟩)

/-- The scaled value goes to the DAC between the flag and the result (R123). -/
theorem drain_mirrorSteps (h : Idle s) (op : Instr) (loc : Locals) (v : Half) :
    drain (s.runningAt op (mirrorSteps v) loc) =
      { ended (flagRange s v 1023) (scaled v.toNat 1023 4095) 0 with
        dac := BitVec.ofNat 12 (scaled v.toNat 1023 4095) } := by
  have hdac : Idle ((flagRange s v 1023).setDac (BitVec.ofNat 12 (scaled v.toNat 1023 4095))) :=
    flagRange_idle h v 1023
  rw [mirrorSteps, rescale_eq_scaled v.toNat 4095 (by decide), drain_rangeFlag, drain_setDac]
  exact drain_lastResult hdac op loc (scaled v.toNat 1023 4095) 0

end

/-- Settles O39: the slot is below both limits or refused. -/
theorem mirrorToDac : Obligations.MirrorToDac := by
  refine fun s h => ⟨fun hslot => exec_raise h (stepsMirror_empty hslot), fun hcount hslot =>
    ⟨s.readHalf (0x402 + 3 * s.ctrl.mirrorSlot.toNat), toNat_readHalf s _, ?_⟩⟩
  rw [exec_of_steps h (stepsMirror_record hcount hslot) (by simp [mirrorSteps]),
    drain_mirrorSteps h]

end Sys2Proof.Proofs
end

section
/-! SUPPORT. Brackets that send different bytes (44_spi_transport.md R101, R109): `Brackets` of no target,
of one more in front, and of any list of slave indices with their bytes. -/

namespace Sys2Proof.Proofs

open Sys2Proof.Machine Sys2Proof.Safety

section
variable {s t : State} {i : Nat} {out : List Byte}

theorem bracketOn_pins (s : State) (i : Nat) (out : List Byte) :
    (bracketOn s i out).1.muxU ++ (bracketOn s i out).1.muxL = BitVec.ofNat 6 (i + 37) := by
  rw [← bracketRun_eq_bracketOn, bracketRun_frame]
  exact extract_channel _

theorem bracketOn_params (s : State) (i : Nat) (out : List Byte) :
    (bracketOn s i out).1.params = s.params := by
  rw [← bracketRun_eq_bracketOn, bracketRun_frame]

theorem brackets_nil (h : SameSpi s t) : Brackets s t [] [] [] where
  answers := rfl
  spi := h
  lengths := rfl
  events := h.bus.trans (List.append_nil _).symm
  closed hne := absurd rfl hne
  untouched _ := ⟨h.cs, h.bracket, h.muxL, h.muxU, h.lastByteEnd, h.now, h.settledAt, h.draws⟩
  mux := nofun
  others _ _ := by rw [h.peers]
  time := h.now.ge

/-- One more bracket in front of the others. -/
theorem brackets_cons {targets : List Nat} {outs replies : List (List Byte)}
    (h : Brackets (bracketOn s i out).1 t targets outs replies) :
    Brackets s t (i :: targets) (out :: outs) ((bracketOn s i out).2 :: replies) where
  answers := congrArg ((bracketOn s i out).2 :: ·) h.answers
  spi := h.spi
  lengths := by
    rw [List.map_cons, List.map_cons, h.lengths, ← bracketRun_eq_bracketOn, bracketRun_length]
  events := by
    rw [h.events, ← bracketRun_eq_bracketOn, bracketRun_bus, List.zip_cons_cons,
      List.zipWith_cons_cons, List.flatten_cons, List.append_assoc]
    rfl
  closed _ := by
    by_cases hnil : targets = []
    · obtain ⟨hcs, hbracket, -⟩ := h.untouched hnil
      exact ⟨hcs, hbracket⟩
    · exact h.closed hnil
  untouched := nofun
  mux j hj := by
    by_cases hnil : targets = []
    · obtain ⟨-, -, hmuxL, hmuxU, -⟩ := h.untouched hnil
      rw [hnil, List.getLast?_singleton, Option.some.injEq] at hj
      rw [hmuxL, hmuxU, bracketOn_pins, hj]
    · rw [List.getLast?_cons_of_ne_nil hnil] at hj
      exact h.mux j hj
  others j hj := by
    obtain ⟨hne, hnot⟩ := not_or.1 (mt List.mem_cons.2 hj)
    rw [h.others j hnot, ← bracketRun_eq_bracketOn, bracketRun_others _ _ _ _ _ hne]
  time := by
    have hfirst := bracketRun_time s i out false
    have hrest := h.time
    rw [bracketOn_params, ← bracketRun_eq_bracketOn] at hrest
    rw [List.map_cons, List.sum_cons]
    omega

/-- A state whose SPI side is that after a list of brackets is what `Brackets` says of the list. -/
theorem brackets_of_pairs {l : List (Nat × List Byte)} (h : SameSpi (bracketsOn s l).1 t) :
    Brackets s t (l.map Prod.fst) (l.map Prod.snd) (bracketsOn s l).2 := by
  induction l generalizing s with
  | nil => exact brackets_nil h
  | cons x l ih => exact brackets_cons (ih h)

end

end Sys2Proof.Proofs
end

section
/-! SUPPORT. The sensor batch as a list of records (10_state.md R30) and `Append` (45_fanout.md R121):
which bytes a record appended to a batch with room writes, a run of padding records, and the error
flagged where the batch is full. -/

namespace Sys2Proof.Proofs

open Sys2Proof.Machine Sys2Proof.Safety

/-! ## States that differ in the buffers only -/

/-- From `s` to `t` bytes were stored and nothing else was done. -/
def StoresOnly (s t : State) : Prop := t = { s with mem := t.mem }

section
variable {s t u : State}

theorem StoresOnly.refl (s : State) : StoresOnly s s := rfl

theorem StoresOnly.trans (h : StoresOnly s t) (h' : StoresOnly t u) : StoresOnly s u := by
  unfold StoresOnly at h h' ⊢
  rw [h', h]

theorem StoresOnly.transferFrame (h : StoresOnly s t) : TransferFrame s t := by
  unfold StoresOnly at h
  unfold TransferFrame
  rw [h]

theorem StoresOnly.sameSpi (h : StoresOnly s t) : SameSpi s t := by
  unfold StoresOnly at h
  rw [h]
  exact ⟨rfl, rfl, rfl, rfl, rfl, rfl, rfl, rfl, rfl, rfl, rfl⟩

theorem StoresOnly.writeByte (h : StoresOnly s t) (off : Nat) (b : Byte) :
    StoresOnly s (t.writeByte off b) :=
  h.trans rfl

theorem withRecord_storesOnly (s : State) (id : Byte) (v : Half) :
    StoresOnly s (s.withRecord id v) :=
  ((((StoresOnly.refl s).writeByte _ _).writeByte _ _).writeByte _ _).writeByte _ _

end

/-! ## One record appended -/

/-- The offset is outside the count byte and the first `n` records of the sensor batch. -/
def OffBatch (n off : Nat) : Prop := off < 0x400 ∨ 0x401 + 3 * n ≤ off

theorem OffBatch.mono {m n off : Nat} (h : OffBatch n off) (hle : m ≤ n) : OffBatch m off := by
  unfold OffBatch at h ⊢
  omega

/-- The rows of a slave index are outside the sensor batch (20_memory.md R42). -/
theorem offBatch_row {i k n : Nat} (hi : i < 24) (hk : k < 8) (hn : n ≤ 38) :
    OffBatch n (0x200 + 8 * i + k) ∧ OffBatch n (0x600 + 8 * i + k) :=
  ⟨.inl (by omega), .inr (by omega)⟩

/-- The sensor batch holds exactly these records (10_state.md R30). -/
structure BatchHolds (s : State) (records : List (Byte × Half)) : Prop where
  count : (s.readByte 0x400).toNat = records.length
  record : ∀ (j : Nat) (x : Byte × Half), records[j]? = some x →
    s.readByte (0x401 + 3 * j) = x.1 ∧ halfAt s (0x402 + 3 * j) = x.2.toNat

theorem byteExists_sensBatch {p : Params} {off : Nat} (hlow : 0x400 ≤ off) (hhigh : off < 0x473) :
    byteExists p off = true := by
  have hbatch : inRange sensBatchBase batchBytes off = true := by
    rw [inRange, Bool.and_eq_true, decide_eq_true_eq, decide_eq_true_eq, sensBatchBase, batchBytes]
    omega
  simp [byteExists, hbatch]

section
variable {s t : State} {records : List (Byte × Half)}

/-- The records depend on their own bytes alone. -/
theorem batchHolds_congr (h : BatchHolds s records)
    (hread : ∀ off, 0x400 ≤ off → off < 0x401 + 3 * records.length →
      t.readByte off = s.readByte off) :
    BatchHolds t records := by
  refine ⟨(congrArg BitVec.toNat (hread _ (by omega) (by omega))).trans h.count, fun j x hj => ?_⟩
  have hlt := (List.getElem?_eq_some_iff.1 hj).1
  obtain ⟨hid, hvalue⟩ := h.record j x hj
  rw [halfAt] at hvalue ⊢
  rw [hread _ (by omega) (by omega), hread _ (by omega) (by omega), hread _ (by omega) (by omega)]
  exact ⟨hid, hvalue⟩

theorem readByte_withRecord {n : Nat} (hcount : (s.readByte 0x400).toNat = n) (hroom : n < 38)
    (id : Byte) (v : Half) (off : Nat) : (s.withRecord id v).readByte off =
      if off = 0x400 then BitVec.ofNat 8 (n + 1)
      else if off = 0x403 + 3 * n then hi v
      else if off = 0x402 + 3 * n then lo v
      else if off = 0x401 + 3 * n then id
      else s.readByte off := by
  have hexists : ∀ a, 0x400 ≤ a → a < 0x473 → byteExists s.params a = true :=
    fun _ hlow hhigh => byteExists_sensBatch hlow hhigh
  have hn : s.batchCount 0x400 = n := hcount
  simp only [State.withRecord, sensBatchBase, hn, Nat.reduceAdd, readByte_writeByte,
    State.writeByte_params, hexists 0x400 (by omega) (by omega),
    hexists (0x401 + 3 * n) (by omega) (by omega), hexists (0x402 + 3 * n) (by omega) (by omega),
    hexists (0x403 + 3 * n) (by omega) (by omega), and_true]

theorem readByte_withRecord_other (hroom : (s.readByte 0x400).toNat < 38) (id : Byte) (v : Half)
    {off : Nat} (hoff : OffBatch ((s.readByte 0x400).toNat + 1) off) :
    (s.withRecord id v).readByte off = s.readByte off := by
  unfold OffBatch at hoff
  rw [readByte_withRecord rfl hroom, if_neg (by omega), if_neg (by omega), if_neg (by omega),
    if_neg (by omega)]

/-- A record appended comes after the others (R121). -/
theorem batchHolds_withRecord (h : BatchHolds s records) (hroom : records.length < 38)
    (id : Byte) (v : Half) : BatchHolds (s.withRecord id v) (records ++ [(id, v)]) := by
  have hread := readByte_withRecord h.count hroom id v
  refine ⟨?_, fun j x hj => ?_⟩
  · rw [hread, if_pos rfl, BitVec.toNat_ofNat, List.length_append, List.length_singleton]
    omega
  · rcases Nat.lt_trichotomy j records.length with hlt | rfl | hgt
    · rw [List.getElem?_append_left hlt] at hj
      obtain ⟨hid, hvalue⟩ := h.record j x hj
      rw [halfAt] at hvalue ⊢
      have hkept : ∀ a, 0x400 < a → a < 0x401 + 3 * records.length →
          (s.withRecord id v).readByte a = s.readByte a := fun a hlow hhigh => by
        rw [hread, if_neg (by omega), if_neg (by omega), if_neg (by omega), if_neg (by omega)]
      rw [hkept _ (by omega) (by omega), hkept _ (by omega) (by omega),
        hkept _ (by omega) (by omega)]
      exact ⟨hid, hvalue⟩
    · rw [List.getElem?_concat_length, Option.some.injEq] at hj
      subst hj
      rw [halfAt, hread, if_neg (by omega), if_neg (by omega), if_neg (by omega), if_pos rfl, hread,
        if_neg (by omega), if_neg (by omega), if_pos rfl, hread, if_neg (by omega),
        if_pos (by omega), lo_eq, hi_eq, toNat_lowByte, toNat_highByte]
      exact ⟨rfl, Nat.mod_add_div v.toNat 256⟩
    · rw [List.getElem?_eq_none (by simpa using hgt)] at hj
      cases hj

end

/-! ## The padding records -/

/-- Zero records appended to a batch with room (R122). -/
def padded (n : Nat) (s : State) : State := (State.withRecord 0 0)^[n] s

/-- The error of `n` records that a full batch drops (R121). -/
def overflowed (n : Nat) (s : State) : State := if n = 0 then s else s.record .len 0

section
variable {s : State} {records : List (Byte × Half)}

theorem padded_succ (n : Nat) (s : State) : padded (n + 1) s = padded n (s.withRecord 0 0) := rfl

theorem padded_storesOnly (n : Nat) (s : State) : StoresOnly s (padded n s) := by
  induction n generalizing s with
  | zero => exact .refl s
  | succ n ih => exact (withRecord_storesOnly s 0 0).trans (ih _)

theorem batchHolds_padded {n : Nat} (h : BatchHolds s records) (hroom : records.length + n ≤ 38) :
    BatchHolds (padded n s) (records ++ List.replicate n (0, 0)) ∧
      ∀ off, OffBatch (records.length + n) off → (padded n s).readByte off = s.readByte off := by
  induction n generalizing s records with
  | zero => exact ⟨by rwa [List.replicate_zero, List.append_nil], fun _ _ => rfl⟩
  | succ n ih =>
    have hlen : (records ++ [((0 : Byte), (0 : Half))]).length = records.length + 1 :=
      List.length_append
    obtain ⟨hholds, hothers⟩ := ih (batchHolds_withRecord h (by omega) 0 0) (by omega)
    rw [padded_succ, List.replicate_succ, List.append_cons]
    refine ⟨hholds, fun off hoff => ?_⟩
    rw [hothers off (hoff.mono (by omega)), readByte_withRecord_other (by rw [h.count]; omega) _ _
      (hoff.mono (by rw [h.count]; omega))]

/-- Padding into a batch with room. -/
theorem drain_pads_room {n : Nat} (h : BatchHolds s records) (hroom : records.length + n ≤ 38)
    (op : Instr) (rest : List Micro) (loc : Locals) :
    drain (s.runningAt op (List.replicate n (.append 0 0) ++ rest) loc) =
      drain ((padded n s).runningAt op rest loc) := by
  induction n generalizing s records with
  | zero => rfl
  | succ n ih =>
    have hfree : s.batchCount sensBatchBase < Config.sensMax := h.count.trans_lt (by
      rw [Config.sensMax]
      omega)
    rw [List.replicate_succ, List.cons_append, drain_append, if_pos hfree, padded_succ]
    refine ih (batchHolds_withRecord h (by omega) 0 0) ?_
    rw [List.length_append, List.length_singleton]
    omega

theorem overflowed_sameSpi (n : Nat) (s : State) : SameSpi s (overflowed n s) := by
  unfold overflowed
  split
  · exact SameSpi.refl s
  · exact ⟨rfl, rfl, rfl, rfl, rfl, rfl, rfl, rfl, rfl, rfl, rfl⟩

theorem overflowed_unkCnt (n : Nat) (s : State) : (overflowed n s).unkCnt = s.unkCnt := by
  unfold overflowed
  split
  · rfl
  · rfl

theorem readByte_overflowed (n : Nat) (s : State) (off : Nat) :
    (overflowed n s).readByte off = s.readByte off := by
  unfold overflowed
  split
  · rfl
  · rfl

theorem overflowed_record (n : Nat) (s : State) : overflowed n (s.record .len 0) = s.record .len 0 := by
  unfold overflowed
  split
  · rfl
  · simp [State.record, BitVec.or_assoc]

/-- Padding into a full batch. -/
theorem drain_pads_full {n : Nat} (hfull : (s.readByte 0x400).toNat = 38) (op : Instr)
    (rest : List Micro) (loc : Locals) :
    drain (s.runningAt op (List.replicate n (.append 0 0) ++ rest) loc) =
      drain ((overflowed n s).runningAt op rest loc) := by
  induction n generalizing s with
  | zero => rfl
  | succ n ih =>
    have hcount : ¬ s.batchCount sensBatchBase < Config.sensMax := not_lt.2 hfull.ge
    have hrecorded : (s.record .len 0).readByte 0x400 = s.readByte 0x400 :=
      readByte_congr s _ rfl rfl _
    have hzero : zext 0 = 0 := rfl
    rw [List.replicate_succ, List.cons_append, drain_append, if_neg hcount, hzero,
      ih (hrecorded.symm ▸ hfull), overflowed_record]
    rfl

/-- `n` padding records fill the batch, and those past it set the error. -/
theorem drain_pads {n : Nat} (h : BatchHolds s records) (hle : records.length ≤ 38) (op : Instr)
    (rest : List Micro) (loc : Locals) :
    drain (s.runningAt op (List.replicate n (.append 0 0) ++ rest) loc) =
      drain ((overflowed (n - (38 - records.length))
        (padded (min n (38 - records.length)) s)).runningAt op rest loc) := by
  have hsplit : n = min n (38 - records.length) + (n - (38 - records.length)) := by omega
  have hroom : records.length + min n (38 - records.length) ≤ 38 := by omega
  rw [congrArg (List.replicate · _) hsplit, List.replicate_add, List.append_assoc,
    drain_pads_room h hroom]
  by_cases hzero : n - (38 - records.length) = 0
  · rw [hzero]
    rfl
  · refine drain_pads_full ?_ op rest loc
    rw [(batchHolds_padded h hroom).1.count, List.length_append, List.length_replicate]
    omega

end

end Sys2Proof.Proofs
end

section
/-! SUPPORT. Commands dropped (45_fanout.md R122): the counter of unknown muscles and the error flagged for
each, which no transfer touches. -/

namespace Sys2Proof.Proofs

open Sys2Proof.Machine Sys2Proof.Safety

/-- A command whose muscle is unknown: counted, and flagged as `UNK_ERR` says (R122). -/
def dropCommand (flagged : Bool) (id : Byte) (s : State) : State :=
  if flagged then s.countUnknown.record .unknownId (zext id) else s.countUnknown

/-- One such command after another. -/
def dropCommands (flagged : Bool) : List Byte → State → State
  | [], s => s
  | id :: ids, s => dropCommands flagged ids (dropCommand flagged id s)

/-- The fields a drop writes, put back to those of `s`. -/
def withCounters (s t : State) : State :=
  { t with unkCnt := s.unkCnt, errKind := s.errKind, lastCause := s.lastCause, errInfo := s.errInfo }

section
variable {s t : State} {flagged : Bool} {id : Byte} {ids : List Byte}

/-- A drop writes the counter and the error registers only. -/
theorem withCounters_dropCommand (u : State) :
    withCounters u (dropCommand flagged id s) = withCounters u s := by
  cases flagged
  · rfl
  · rfl

theorem withCounters_dropCommands : withCounters s (dropCommands flagged ids s) = s := by
  have hkeep : ∀ u, withCounters u (dropCommands flagged ids s) = withCounters u s := by
    intro u
    induction ids generalizing s with
    | nil => rfl
    | cons id ids ih => exact ih.trans (withCounters_dropCommand u)
  exact hkeep s

theorem dropCommand_sameSpi : SameSpi s (dropCommand flagged id s) := by
  cases flagged <;> exact ⟨rfl, rfl, rfl, rfl, rfl, rfl, rfl, rfl, rfl, rfl, rfl⟩

theorem readByte_dropCommand (off : Nat) : (dropCommand flagged id s).readByte off = s.readByte off := by
  cases flagged
  · rfl
  · rfl

theorem dropCommand_params : (dropCommand flagged id s).params = s.params :=
  dropCommand_sameSpi.params

/-- Drops before a transfer and after it are the same. -/
theorem dropCommands_transferFrame (h : TransferFrame s t) :
    TransferFrame (dropCommands flagged ids s) (dropCommands flagged ids t) := by
  induction ids generalizing s t with
  | nil => exact h
  | cons id ids ih =>
    refine ih ?_
    cases flagged
    · exact congrArg (dropCommand false id) h
    · exact congrArg (dropCommand true id) h

theorem withCounters_transferFrame (h : TransferFrame (dropCommands flagged ids s) t) :
    TransferFrame s (withCounters s t) := by
  have hcounters : withCounters s t = _ := congrArg (withCounters s) h
  have hdrops := withCounters_dropCommands (s := s) (flagged := flagged) (ids := ids)
  rw [hcounters]
  exact congrArg (fun u : State => { u with
    done := t.done, res0 := t.res0, res1 := t.res1, muxL := t.muxL, muxU := t.muxU, cs := t.cs
    bracket := t.bracket, lastByteEnd := t.lastByteEnd, mem := t.mem, peers := t.peers, now := t.now
    settledAt := t.settledAt, draws := t.draws, bus := t.bus }) hdrops

theorem toNat_countUnknown (s : State) :
    s.countUnknown.unkCnt.toNat = min (s.unkCnt.toNat + 1) 0xFFFF := by
  have hlt := s.unkCnt.isLt
  rw [State.countUnknown_unkCnt]
  split
  · rename_i hmax
    rw [hmax]
    rfl
  · rename_i hmax
    have hne : s.unkCnt.toNat ≠ 0xFFFF := fun h => hmax (BitVec.eq_of_toNat_eq h)
    rw [BitVec.toNat_add, show (1 : Half).toNat = 1 from rfl]
    omega

theorem toNat_dropCommand :
    (dropCommand flagged id s).unkCnt.toNat = min (s.unkCnt.toNat + 1) 0xFFFF := by
  rw [← toNat_countUnknown]
  cases flagged
  · rfl
  · rfl

/-- `UNKCNT` counts the drops up to its limit (R23). -/
theorem dropCommands_unkCnt : (dropCommands flagged ids s).unkCnt =
    BitVec.ofNat 16 (min (s.unkCnt.toNat + ids.length) 0xFFFF) := by
  induction ids generalizing s with
  | nil =>
    have hlt := s.unkCnt.isLt
    apply BitVec.eq_of_toNat_eq
    rw [dropCommands, BitVec.toNat_ofNat, List.length_nil]
    omega
  | cons id ids ih =>
    rw [dropCommands, ih, toNat_dropCommand, List.length_cons]
    congr 1
    omega

/-- With no flag asked for, or nothing dropped, the error registers stay. -/
theorem dropCommands_unflagged (h : flagged = false ∨ ids = []) :
    (dropCommands flagged ids s).errKind = s.errKind ∧
      (dropCommands flagged ids s).lastCause = s.lastCause ∧
      (dropCommands flagged ids s).errInfo = s.errInfo := by
  rcases h with rfl | rfl
  · induction ids generalizing s with
    | nil => exact ⟨rfl, rfl, rfl⟩
    | cons id ids ih => exact ih
  · exact ⟨rfl, rfl, rfl⟩

/-- Flagged drops leave the last one's error (R145). -/
theorem dropCommands_flagged (hlast : ids.getLast? = some id) :
    (dropCommands true ids s).errKind = s.errKind ||| 0x004 ∧
      (dropCommands true ids s).lastCause = 3 ∧
      (dropCommands true ids s).errInfo = BitVec.ofNat 16 id.toNat := by
  induction ids generalizing s with
  | nil => cases hlast
  | cons first ids ih =>
    by_cases hnil : ids = []
    · subst hnil
      obtain rfl : first = id := Option.some.inj hlast
      exact ⟨rfl, rfl, zext_eq first⟩
    · rw [List.getLast?_cons_of_ne_nil hnil] at hlast
      obtain ⟨hkind, hcause, hinfo⟩ := ih (s := dropCommand true first s) hlast
      have hfirst : (dropCommand true first s).errKind = s.errKind ||| 0x004 := rfl
      rw [hfirst, BitVec.or_assoc, BitVec.or_self] at hkind
      exact ⟨hkind, hcause, hinfo⟩

theorem dropCommands_errKind : (dropCommands flagged ids s).errKind =
    s.errKind ||| (if flagged = true ∧ ids ≠ [] then 0x004 else 0) := by
  split
  · rename_i h
    obtain ⟨rfl, hne⟩ := h
    exact (dropCommands_flagged (List.getLast?_eq_some_getLast hne)).1
  · rename_i h
    rw [not_and_or, Bool.not_eq_true, not_not] at h
    exact (dropCommands_unflagged h).1.trans (BitVec.or_zero).symm

end

end Sys2Proof.Proofs
end

section
/-! SUPPORT. The commands of `SWAP` (45_fanout.md R121, R122): each, after its lookup, a known muscle's
transaction and sensor record or a drop; the commands carried out one after another; what they leave on the
bus, in the counters and in the buffers. -/

namespace Sys2Proof.Proofs

open Sys2Proof.Machine Sys2Proof.Safety

/-! ## The commands of the batch -/

/-- A command of the batch after the lookup of its muscle (R122). -/
inductive Command where
  | known (h : Hit)
  | unknown (id : Byte)

/-- The lookup of a command's muscle. -/
def commandOf (s : State) (x : Byte × Half) : Command :=
  match s.lookupMuscle x.1 with
  | none => .unknown x.1
  | some i => .known ⟨x.1, x.2, i⟩

def hitsOf : List Command → List Hit
  | [] => []
  | .known h :: cmds => h :: hitsOf cmds
  | .unknown _ :: cmds => hitsOf cmds

def missesOf : List Command → List Byte
  | [] => []
  | .known _ :: cmds => missesOf cmds
  | .unknown id :: cmds => id :: missesOf cmds

theorem hitsOf_map_commandOf (s : State) (l : List (Byte × Half)) : hitsOf (l.map (commandOf s)) =
    l.filterMap fun x => (s.lookupMuscle x.1).map fun i => ⟨x.1, x.2, i⟩ := by
  induction l with
  | nil => rfl
  | cons x l ih =>
    rw [List.map_cons, List.filterMap_cons, commandOf]
    cases s.lookupMuscle x.1 with
    | none => exact ih
    | some i => exact congrArg (_ :: ·) ih

theorem missesOf_map_commandOf (s : State) (l : List (Byte × Half)) : missesOf (l.map (commandOf s)) =
    (l.filter fun x => (s.lookupMuscle x.1).isNone).map fun x => x.1 := by
  induction l with
  | nil => rfl
  | cons x l ih =>
    rw [List.map_cons, List.filter_cons, commandOf]
    cases s.lookupMuscle x.1 with
    | none => exact congrArg (_ :: ·) ih
    | some i => exact ih

theorem hitsOf_commands (s : State) (m : Nat) : hitsOf ((commands s m).map (commandOf s)) = hits s m :=
  hitsOf_map_commandOf s (commands s m)

theorem missesOf_commands (s : State) (m : Nat) :
    missesOf ((commands s m).map (commandOf s)) = misses s m :=
  missesOf_map_commandOf s (commands s m)

theorem hits_length_le (s : State) (m : Nat) : (hits s m).length ≤ m :=
  (List.length_filterMap_le _ _).trans (by rw [commands, List.length_map, List.length_range])

/-- A lookup finds an index of the machine (R92, R93). -/
theorem hits_below (s : State) (m : Nat) : ∀ h ∈ hits s m, h.index < s.params.nSlaves := by
  intro h hh
  obtain ⟨x, -, hx⟩ := List.mem_filterMap.1 hh
  obtain ⟨i, hi, rfl⟩ := Option.map_eq_some_iff.1 hx
  exact List.mem_range.1 (List.mem_of_find?_eq_some hi)

/-! ## The steps of a command -/

/-- The steps of one command after its lookup (R122). -/
def commandSteps (c d : Byte) (flagged : Bool) : Command → List Micro
  | .known h => transactionSteps c d h.value h.index ++ [.appendReply h.id]
  | .unknown id => .countUnknown :: if flagged then [.flag .unknownId (zext id)] else []

theorem swapRecord_eq {c d : Byte} (hd : d ≠ 255) (s : State) (k : Nat) :
    swapRecord c d s k = commandSteps c d s.ctrl.unkErr
      (commandOf s (s.readByte (0x301 + 3 * k), BitVec.ofNat 16 (halfAt s (0x302 + 3 * k)))) := by
  have hvalue : s.recordValue cmdBatchBase k = BitVec.ofNat 16 (halfAt s (0x302 + 3 * k)) :=
    half_eq _ _
  have hid : s.recordId cmdBatchBase k = s.readByte (0x301 + 3 * k) := rfl
  rw [swapRecord, commandOf, hvalue, hid]
  cases s.lookupMuscle (s.readByte (0x301 + 3 * k)) with
  | none => rfl
  | some i =>
    simp only [commandSteps, transactionSteps, txnBytes, if_neg hd, List.append_assoc]
    rfl

theorem flatMap_swapRecord {c d : Byte} (hd : d ≠ 255) (s : State) (m : Nat) :
    (List.range m).flatMap (swapRecord c d s) =
      ((commands s m).map (commandOf s)).flatMap (commandSteps c d s.ctrl.unkErr) := by
  simp only [commands, List.flatMap_map, ← swapRecord_eq hd]

/-! ## A command carried out -/

/-- The record a transaction with a known muscle's slave leaves in the sensor batch (R122). -/
def sensorRecord (h : Hit) (r : List Byte) : Byte × Half := (h.id, replyWord r 2)

/-- The state after a known muscle's transaction and its sensor record, and the replies. -/
def harvestCommand (s : State) (c d : Byte) (h : Hit) : State × List Byte :=
  let x := transactionRun s c d h.value h.index
  (x.1.withRecord h.id (replyWord x.2 2), x.2)

/-- The state after the commands, and the replies of each transaction. -/
def commandsRun (s : State) (c d : Byte) (flagged : Bool) : List Command → State × List (List Byte)
  | [] => (s, [])
  | .known h :: cmds =>
    let x := harvestCommand s c d h
    let r := commandsRun x.1 c d flagged cmds
    (r.1, x.2 :: r.2)
  | .unknown id :: cmds => commandsRun (dropCommand flagged id s) c d flagged cmds

/-- What the known muscles of the commands need: room in the sensor batch, and rows of their slaves. -/
structure FitsBatch (s : State) (hit : List Hit) : Prop where
  room : (s.readByte 0x400).toNat + hit.length ≤ 38
  below : ∀ h ∈ hit, h.index < s.params.nSlaves
  slaves : s.params.nSlaves ≤ 24

theorem harvestCommand_transferFrame (s : State) (c d : Byte) (h : Hit) :
    TransferFrame s (harvestCommand s c d h).1 :=
  transferFrame_trans (transactionRun_transferFrame s c d h.value h.index)
    (withRecord_storesOnly _ _ _).transferFrame

theorem harvestCommand_params (s : State) (c d : Byte) (h : Hit) :
    (harvestCommand s c d h).1.params = s.params :=
  params_of_transferFrame (harvestCommand_transferFrame s c d h)

theorem harvestCommand_sameSpi (s : State) (c d : Byte) (h : Hit) :
    SameSpi (bracketOn s h.index (masterBytes c d h.value)).1 (harvestCommand s c d h).1 ∧
      (harvestCommand s c d h).2 = (bracketOn s h.index (masterBytes c d h.value)).2 := by
  obtain ⟨hspi, hreplies⟩ := transactionRun_sameSpi s c d h.value h.index
  rw [txnBytes_eq] at hspi hreplies
  exact ⟨hspi.trans (withRecord_storesOnly _ _ _).sameSpi, hreplies⟩

section
variable {s : State} {c d : Byte} {flagged : Bool} {h : Hit} {hit : List Hit}

theorem FitsBatch.head (hfits : FitsBatch s (h :: hit)) :
    (s.readByte 0x400).toNat < 38 ∧ h.index < s.params.nSlaves ∧ h.index < 24 := by
  have hroom := hfits.room
  have hbelow := hfits.below h List.mem_cons_self
  rw [List.length_cons] at hroom
  exact ⟨by omega, hbelow, hbelow.trans_le hfits.slaves⟩

theorem FitsBatch.drop (hfits : FitsBatch s hit) {flagged : Bool} (id : Byte) :
    FitsBatch (dropCommand flagged id s) hit := by
  refine ⟨?_, ?_, ?_⟩
  · rw [readByte_dropCommand]
    exact hfits.room
  · rw [dropCommand_params]
    exact hfits.below
  · rw [dropCommand_params]
    exact hfits.slaves

section
variable (hd : d ≠ 255)
include hd

theorem length_transactionRun (s : State) (v : Half) (i : Nat) :
    (transactionRun s c d v i).2.length = 4 := by
  rw [transactionRun_length, txnBytes, if_neg hd]
  rfl

theorem readByte_transactionRun_other (v : Half) {i off : Nat} (hi : i < s.params.nSlaves)
    (hoff : OffRows i 4 off) : (transactionRun s c d v i).1.readByte off = s.readByte off := by
  refine (transactionRun_buffers hi).2 off ?_
  rwa [length_transactionRun hd]

/-- The rows of a slave are outside the sensor batch, so its transaction leaves the batch alone. -/
theorem readByte_transactionRun_batch (v : Half) {i off : Nat} (hi : i < s.params.nSlaves)
    (hslaves : s.params.nSlaves ≤ 24) (hlow : 0x400 ≤ off) (hhigh : off < 0x473) :
    (transactionRun s c d v i).1.readByte off = s.readByte off :=
  readByte_transactionRun_other hd v hi fun k hk => by omega

theorem count_transactionRun (v : Half) {i : Nat} (hi : i < s.params.nSlaves)
    (hslaves : s.params.nSlaves ≤ 24) :
    (transactionRun s c d v i).1.readByte 0x400 = s.readByte 0x400 :=
  readByte_transactionRun_batch hd v hi hslaves (Nat.le_refl _) (by decide)

/-- The record appended leaves every byte outside the batch as the transaction left it. -/
theorem readByte_harvestCommand (hfits : FitsBatch s (h :: hit)) {off : Nat}
    (hoff : OffBatch ((s.readByte 0x400).toNat + 1) off) :
    (harvestCommand s c d h).1.readByte off =
      (transactionRun s c d h.value h.index).1.readByte off := by
  obtain ⟨hroom, hbelow, -⟩ := hfits.head
  rw [← count_transactionRun hd h.value hbelow hfits.slaves] at hroom hoff
  exact readByte_withRecord_other hroom _ _ hoff

theorem harvestCommand_count (hfits : FitsBatch s (h :: hit)) :
    ((harvestCommand s c d h).1.readByte 0x400).toNat = (s.readByte 0x400).toNat + 1 := by
  obtain ⟨hroom, hbelow, -⟩ := hfits.head
  have hcount := congrArg BitVec.toNat (count_transactionRun (c := c) hd h.value hbelow hfits.slaves)
  rw [harvestCommand, readByte_withRecord hcount hroom, if_pos rfl, BitVec.toNat_ofNat]
  omega

/-- The slave's rows are those its transaction leaves. -/
theorem harvestCommand_slave (hfits : FitsBatch s (h :: hit)) :
    TransactionLeaves s (harvestCommand s c d h).1 h.index c d h.value (harvestCommand s c d h).2 := by
  obtain ⟨hroom, hbelow, hindex⟩ := hfits.head
  obtain ⟨⟨hrow, hrecord⟩, -⟩ := transactionRun_buffers (c := c) (d := d) (v := h.value) hbelow
  have hrows := fun k (hk : k < 8) =>
    offBatch_row (n := (s.readByte 0x400).toNat + 1) hindex hk (by omega)
  refine ⟨fun k hk => ?_, recordAfter_congr (fun _ _ => rfl) (fun k hk => ?_) hrecord⟩
  · have hk8 : k < 8 := hk.trans_le (transactionRun_replies_short s c d h.value h.index)
    exact (readByte_harvestCommand hd hfits (hrows k hk8).1).trans (hrow k hk)
  · exact readByte_harvestCommand hd hfits (hrows k hk).2

theorem batchHolds_harvestCommand (hfits : FitsBatch s (h :: hit)) {records : List (Byte × Half)}
    (hholds : BatchHolds s records) : BatchHolds (harvestCommand s c d h).1
      (records ++ [sensorRecord h (harvestCommand s c d h).2]) := by
  obtain ⟨hroom, hbelow, -⟩ := hfits.head
  rw [hholds.count] at hroom
  refine batchHolds_withRecord (batchHolds_congr hholds fun off hlow hhigh => ?_) hroom _ _
  exact readByte_transactionRun_batch hd h.value hbelow hfits.slaves hlow (by omega)

theorem readByte_harvestCommand_other (hfits : FitsBatch s (h :: hit)) {off : Nat}
    (hrows : OffRows h.index 4 off) (hoff : OffBatch ((s.readByte 0x400).toNat + 1) off) :
    (harvestCommand s c d h).1.readByte off = s.readByte off :=
  (readByte_harvestCommand hd hfits hoff).trans
    (readByte_transactionRun_other hd h.value hfits.head.2.1 hrows)

theorem FitsBatch.tail (hfits : FitsBatch s (h :: hit)) :
    FitsBatch (harvestCommand s c d h).1 hit := by
  have hroom := hfits.room
  rw [List.length_cons] at hroom
  refine ⟨?_, ?_, ?_⟩
  · rw [harvestCommand_count hd hfits]
    omega
  · rw [harvestCommand_params]
    exact fun g hg => hfits.below g (List.mem_cons_of_mem h hg)
  · rw [harvestCommand_params]
    exact hfits.slaves

end

theorem drain_harvestCommand (hd : d ≠ 255) (hfits : FitsBatch s (h :: hit)) (op : Instr)
    (rest : List Micro) (loc : Locals) :
    drain (s.runningAt op (commandSteps c d flagged (.known h) ++ rest) loc) =
      drain ((harvestCommand s c d h).1.runningAt op rest
        { loc with
          replies := (harvestCommand s c d h).2
          ownBracket := false
          real := loc.real + 1 }) := by
  obtain ⟨hroom, hbelow, -⟩ := hfits.head
  have hfree : (transactionRun s c d h.value h.index).1.batchCount sensBatchBase < Config.sensMax := by
    rw [State.batchCount, sensBatchBase, count_transactionRun hd h.value hbelow hfits.slaves]
    exact hroom
  rw [commandSteps, List.append_assoc, drain_transaction, List.singleton_append, drain_appendReply,
    drain_append, if_pos hfree]
  rfl

theorem drain_dropCommand (s : State) (id : Byte) (op : Instr) (rest : List Micro) (loc : Locals) :
    drain (s.runningAt op (commandSteps c d flagged (.unknown id) ++ rest) loc) =
      drain ((dropCommand flagged id s).runningAt op rest { loc with unk := loc.unk + 1 }) := by
  rw [commandSteps, List.cons_append, drain_countUnknown]
  cases flagged
  · rfl
  · exact drain_flag _ _ _ _ _ _

end

/-! ## The commands carried out -/

section
variable {s : State} {c d : Byte} {flagged : Bool} {cmds : List Command}

theorem drain_commands (hd : d ≠ 255) (hfits : FitsBatch s (hitsOf cmds)) (op : Instr)
    (rest : List Micro) (loc : Locals) (hown : loc.ownBracket = false) :
    drain (s.runningAt op (cmds.flatMap (commandSteps c d flagged) ++ rest) loc) =
      drain ((commandsRun s c d flagged cmds).1.runningAt op rest
        { loc with
          replies := lastReplies loc.replies (commandsRun s c d flagged cmds).2
          real := loc.real + (hitsOf cmds).length
          unk := loc.unk + (missesOf cmds).length }) := by
  induction cmds generalizing s loc with
  | nil => rfl
  | cons cmd cmds ih =>
    rw [List.flatMap_cons, List.append_assoc]
    cases cmd with
    | known h =>
      rw [drain_harvestCommand hd hfits, ih (hfits.tail hd) _ rfl]
      simp only [commandsRun, hitsOf, missesOf, lastReplies, List.getLastD_cons, List.length_cons,
        Nat.add_assoc, Nat.add_comm 1, ← hown]
    | unknown id =>
      rw [drain_dropCommand, ih (hfits.drop id) { loc with unk := loc.unk + 1 } hown]
      simp only [commandsRun, hitsOf, missesOf, List.length_cons, Nat.add_assoc, Nat.add_comm 1]

/-- The registers after the commands are those after the drops alone. -/
theorem commandsRun_transferFrame (s : State) (c d : Byte) (flagged : Bool) (cmds : List Command) :
    TransferFrame (dropCommands flagged (missesOf cmds) s) (commandsRun s c d flagged cmds).1 := by
  induction cmds generalizing s with
  | nil => rfl
  | cons cmd cmds ih =>
    cases cmd with
    | known h =>
      exact transferFrame_trans (dropCommands_transferFrame (harvestCommand_transferFrame s c d h))
        (ih _)
    | unknown id => exact ih _

/-- The bracket of a known muscle's transaction: the slave and the master bytes. -/
def hitBracket (c d : Byte) (h : Hit) : Nat × List Byte := (h.index, masterBytes c d h.value)

/-- The SPI side after the commands is that of the transactions' brackets. -/
theorem commandsRun_sameSpi (s : State) (c d : Byte) (flagged : Bool) (cmds : List Command) :
    SameSpi (bracketsOn s ((hitsOf cmds).map (hitBracket c d))).1 (commandsRun s c d flagged cmds).1 ∧
      (commandsRun s c d flagged cmds).2 =
        (bracketsOn s ((hitsOf cmds).map (hitBracket c d))).2 := by
  induction cmds generalizing s with
  | nil => exact ⟨SameSpi.refl s, rfl⟩
  | cons cmd cmds ih =>
    cases cmd with
    | known h =>
      obtain ⟨hfirst, hfirstReplies⟩ := harvestCommand_sameSpi s c d h
      obtain ⟨hrest, hrestReplies⟩ := ih (harvestCommand s c d h).1
      obtain ⟨hafter, hafterReplies⟩ :=
        bracketsOn_sameSpi hfirst ((hitsOf cmds).map (hitBracket c d))
      refine ⟨hafter.trans hrest, ?_⟩
      simp only [commandsRun, hitsOf, List.map_cons, bracketsOn, hitBracket, hfirstReplies,
        hrestReplies, hafterReplies]
    | unknown id =>
      obtain ⟨hrest, hrestReplies⟩ := ih (dropCommand flagged id s)
      obtain ⟨hafter, hafterReplies⟩ := bracketsOn_sameSpi (dropCommand_sameSpi (s := s)
        (flagged := flagged) (id := id)) ((hitsOf cmds).map (hitBracket c d))
      exact ⟨hafter.trans hrest, hrestReplies.trans hafterReplies⟩

section
variable (hd : d ≠ 255)
include hd

/-- A byte in no row of a known muscle's slave and outside the records appended reads as before. -/
theorem readByte_commandsRun_other (hfits : FitsBatch s (hitsOf cmds)) {off : Nat}
    (hrows : ∀ h ∈ hitsOf cmds, OffRows h.index 4 off)
    (hoff : OffBatch ((s.readByte 0x400).toNat + (hitsOf cmds).length) off) :
    (commandsRun s c d flagged cmds).1.readByte off = s.readByte off := by
  induction cmds generalizing s with
  | nil => rfl
  | cons cmd cmds ih =>
    cases cmd with
    | known h =>
      obtain ⟨hrow, hrows⟩ := List.forall_mem_cons.1 hrows
      rw [hitsOf, List.length_cons] at hoff
      refine (ih (hfits.tail hd) hrows ?_).trans
        (readByte_harvestCommand_other hd hfits hrow (hoff.mono (by omega)))
      rw [harvestCommand_count hd hfits]
      exact hoff.mono (by omega)
    | unknown id =>
      refine (ih (hfits.drop id) hrows ?_).trans (readByte_dropCommand off)
      rwa [readByte_dropCommand]

/-- The sensor records of the known muscles come after those of the batch, in order. -/
theorem batchHolds_commandsRun (hfits : FitsBatch s (hitsOf cmds)) {records : List (Byte × Half)}
    (hholds : BatchHolds s records) : BatchHolds (commandsRun s c d flagged cmds).1
      (records ++ List.zipWith sensorRecord (hitsOf cmds) (commandsRun s c d flagged cmds).2) := by
  induction cmds generalizing s records with
  | nil => exact (List.append_nil records).symm ▸ hholds
  | cons cmd cmds ih =>
    cases cmd with
    | known h =>
      have hrest := ih (hfits.tail hd) (batchHolds_harvestCommand (c := c) hd hfits hholds)
      rwa [List.append_assoc] at hrest
    | unknown id =>
      exact ih (hfits.drop id) (batchHolds_congr hholds fun off _ _ => readByte_dropCommand off)

end

/-! ## The last transaction of each slave -/

/-- A second transaction on a slave leaves its record as if it were the first: it writes the same halves
(R120). -/
theorem recordAfter_trans {s t u : State} {i : Nat} {v w : Half} {r q : List Byte}
    (h : RecordAfter s t i c d v r) (g : RecordAfter t u i c d w q) : RecordAfter s u i c d w q := by
  rw [recordAfter_iff] at h g ⊢
  obtain ⟨h0, h1, h2, h3⟩ := h
  obtain ⟨g0, g1, g2, g3⟩ := g
  rw [h0] at g0
  rw [h1] at g1
  rw [h2] at g2
  rw [h3] at g3
  refine ⟨g0.trans ?_, g1.trans ?_, g2.trans ?_, g3.trans ?_⟩
  · split <;> rfl
  · split
    · rfl
    · split <;> rfl
  · split
    · rfl
    · split <;> rfl
  · split <;> rfl

/-- No later command is for the slave of hit `j`. -/
def LastOfSlave (hit : List Hit) (j : Nat) (h : Hit) : Prop :=
  ∀ (l : Nat) (g : Hit), j < l → hit[l]? = some g → g.index ≠ h.index

/-- The rows of a slave that no command is for read as before. -/
theorem readByte_commandsRun_rows (hd : d ≠ 255) (hfits : FitsBatch s (hitsOf cmds)) {i k : Nat}
    (hi : i < 24) (hk : k < 8) (hnone : ∀ g ∈ hitsOf cmds, g.index ≠ i) :
    (commandsRun s c d flagged cmds).1.readByte (0x200 + 8 * i + k) = s.readByte (0x200 + 8 * i + k) ∧
      (commandsRun s c d flagged cmds).1.readByte (0x600 + 8 * i + k) =
        s.readByte (0x600 + 8 * i + k) := by
  have hrows : ∀ g ∈ hitsOf cmds, _ := fun g hg =>
    offRows_of_ne (n := 4) hi ((hfits.below g hg).trans_le hfits.slaves) (hnone g hg).symm hk
  obtain ⟨hrx, hrecord⟩ := offBatch_row hi hk hfits.room
  exact ⟨readByte_commandsRun_other hd hfits (fun g hg => (hrows g hg).1) hrx,
    readByte_commandsRun_other hd hfits (fun g hg => (hrows g hg).2) hrecord⟩

/-- The record of a slave before the rest of the commands does not show in what its last transaction
leaves: the command in front wrote the same halves of it, or none. -/
theorem recordAfter_harvestCommand (hd : d ≠ 255) {g : Hit} {hit : List Hit}
    (hfits : FitsBatch s (g :: hit)) {t : State} {i : Nat} (hi : i < 24) {v : Half} {r : List Byte}
    (h : RecordAfter (harvestCommand s c d g).1 t i c d v r) : RecordAfter s t i c d v r := by
  obtain ⟨hroom, -, hindex⟩ := hfits.head
  by_cases heq : g.index = i
  · subst heq
    exact recordAfter_trans (harvestCommand_slave hd hfits).record h
  · refine recordAfter_congr (fun k hk => ?_) (fun _ _ => rfl) h
    exact (readByte_harvestCommand_other hd hfits (offRows_of_ne hi hindex (Ne.symm heq) hk).2
      (offBatch_row hi hk (by omega)).2).symm

/-- The buffers of each slave are what its last transaction leaves. -/
theorem commandsRun_leaves (hd : d ≠ 255) (hfits : FitsBatch s (hitsOf cmds)) {j : Nat} {h : Hit}
    {r : List Byte} (hj : (hitsOf cmds)[j]? = some h)
    (hr : (commandsRun s c d flagged cmds).2[j]? = some r) (hlast : LastOfSlave (hitsOf cmds) j h) :
    TransactionLeaves s (commandsRun s c d flagged cmds).1 h.index c d h.value r := by
  induction cmds generalizing s j with
  | nil => cases hj
  | cons cmd cmds ih =>
    cases cmd with
    | known g =>
      have hslaves := hfits.slaves
      have hindex : h.index < 24 := (hfits.below h (List.mem_of_getElem? hj)).trans_le hslaves
      cases j with
      | zero =>
        obtain rfl : g = h := Option.some.inj hj
        obtain rfl : (harvestCommand s c d g).2 = r := Option.some.inj hr
        obtain ⟨hrow, hrecord⟩ := harvestCommand_slave (c := c) hd hfits
        have hnone : ∀ x ∈ hitsOf cmds, x.index ≠ g.index := fun x hx => by
          obtain ⟨l, hl⟩ := List.getElem?_of_mem hx
          exact hlast (l + 1) x (Nat.succ_pos l) hl
        have hkept : ∀ k < 8, _ := fun k hk =>
          readByte_commandsRun_rows (c := c) (flagged := flagged) hd (hfits.tail (c := c) hd) hindex hk
            hnone
        have hshort := transactionRun_replies_short s c d g.value g.index
        exact ⟨fun k hk => (hkept k (hk.trans_le hshort)).1.trans (hrow k hk),
          recordAfter_congr (fun _ _ => rfl) (fun k hk => (hkept k hk).2) hrecord⟩
      | succ j =>
        obtain ⟨hrow, hrecord⟩ := ih (hfits.tail hd) hj hr fun l x hl hx =>
          hlast (l + 1) x (Nat.succ_lt_succ hl) hx
        exact ⟨hrow, recordAfter_harvestCommand hd hfits hindex hrecord⟩
    | unknown id =>
      obtain ⟨hrow, hrecord⟩ := ih (hfits.drop id) hj hr hlast
      exact ⟨hrow,
        recordAfter_congr (fun _ _ => (readByte_dropCommand _).symm) (fun _ _ => rfl) hrecord⟩

end

end Sys2Proof.Proofs
end

section
/-! SUPPORT. `SWAP` as a whole (45_fanout.md R122): its refusals, the state it ends in, and what that state
holds of the bus, the registers and the buffers. -/

namespace Sys2Proof.Proofs

open Sys2Proof.Machine Sys2Proof.Safety

/-! ## The refusals and the steps -/

section
variable {s : State}

/-- The steps of `SWAP` for `m` commands after the count is cleared (R122). -/
def swapSteps (s : State) (m : Nat) : List Micro :=
  ((commands s m).map (commandOf s)).flatMap (commandSteps s.commandId s.sensorId s.ctrl.unkErr) ++
    (List.replicate s.ctrl.padCount.toNat (.append 0 0) ++ [.resultSwap])

theorem stepsSwap_opened (hopen : s.bracket ≠ .closed) : stepsOf .swap s = [.raise .nest (toHalf 0)] :=
  if_pos (isOpen_of_opened hopen)

theorem stepsSwap_badSensor (hclosed : s.bracket = .closed) (h1 : s.sensorId ≠ 1) (h2 : s.sensorId ≠ 2)
    (h3 : s.sensorId ≠ 3) : stepsOf .swap s = [.raise .badArg (toHalf s.sensorId.toNat)] := by
  rw [stepsOf, stepsSwap, if_neg (not_isOpen_of_closed hclosed), if_pos ⟨h1, h2, h3⟩, zext_eq]
  rfl

theorem sensorId_ne_all (hsensor : s.sensorId = 1 ∨ s.sensorId = 2 ∨ s.sensorId = 3) :
    s.sensorId ≠ 255 := by
  rcases hsensor with h | h | h <;> rw [h] <;> decide

section
variable (hclosed : s.bracket = .closed) (hsensor : s.sensorId = 1 ∨ s.sensorId = 2 ∨ s.sensorId = 3)
include hclosed hsensor

theorem stepsSwap_tooLong (hlong : 38 < (s.readByte 0x300).toNat) :
    stepsOf .swap s = [.raise .len (toHalf (s.readByte 0x300).toNat)] := by
  have hlong' : Config.cmdMax < s.batchCount cmdBatchBase := hlong
  rw [stepsOf, stepsSwap, if_neg (not_isOpen_of_closed hclosed), if_neg (by tauto), if_pos hlong']
  rfl

theorem stepsSwap_fans (hm : (s.readByte 0x300).toNat ≤ 38) :
    stepsOf .swap s = .poke 0x400 0 :: swapSteps s (s.readByte 0x300).toNat := by
  have hm' : ¬ Config.cmdMax < s.batchCount cmdBatchBase := Nat.not_lt.2 hm
  rw [stepsOf, stepsSwap, if_neg (not_isOpen_of_closed hclosed), if_neg (by tauto), if_neg hm',
    flatMap_swapRecord (sensorId_ne_all hsensor), List.cons_append, List.cons_append,
    List.append_assoc]
  rfl

end

end

/-! ## The state `SWAP` ends in -/

/-- The commands carried out on the cleared sensor batch. -/
def swapHarvest (s : State) (m : Nat) : State × List (List Byte) :=
  commandsRun (s.writeByte 0x400 0) s.commandId s.sensorId s.ctrl.unkErr
    ((commands s m).map (commandOf s))

/-- The padding records there is room for. -/
def swapPads (s : State) (m : Nat) : Nat := min s.ctrl.padCount.toNat (38 - (hits s m).length)

/-- The padding records there is no room for. -/
def swapExcess (s : State) (m : Nat) : Nat := s.ctrl.padCount.toNat - (38 - (hits s m).length)

/-- The harvested batch padded. -/
def swapPadded (s : State) (m : Nat) : State := padded (swapPads s m) (swapHarvest s m).1

/-- The state at the end of `SWAP`. -/
def swapEnd (s : State) (m : Nat) : State :=
  ended (overflowed (swapExcess s m) (swapPadded s m)) (hits s m).length (misses s m).length

section
variable {s : State} {m : Nat}

theorem batchHolds_cleared (s : State) : BatchHolds (s.writeByte 0x400 0) [] where
  count := by
    rw [readByte_writeByte_same s _ _ (byteExists_sensBatch (by decide) (by decide))]
    rfl
  record := nofun

theorem fitsBatch_cleared (hslaves : s.params.nSlaves ≤ 24) (hm : m ≤ 38) :
    FitsBatch (s.writeByte 0x400 0) (hits s m) where
  room := by
    have hle := hits_length_le s m
    have hcount := (batchHolds_cleared s).count
    rw [List.length_nil] at hcount
    omega
  below := hits_below s m
  slaves := hslaves

theorem swapExcess_eq_zero_iff (hm : m ≤ 38) :
    swapExcess s m = 0 ↔ (hits s m).length + s.ctrl.padCount.toNat ≤ 38 := by
  have hle := hits_length_le s m
  unfold swapExcess
  omega

theorem swapPads_total (hm : m ≤ 38) :
    (hits s m).length + swapPads s m = min 38 ((hits s m).length + s.ctrl.padCount.toNat) := by
  have hle := hits_length_le s m
  unfold swapPads
  omega

/-! ## The bus and the registers -/

theorem swapEnd_sameSpi (s : State) (m : Nat) :
    SameSpi (bracketsOn s ((hits s m).map (hitBracket s.commandId s.sensorId))).1 (swapEnd s m) ∧
      (swapHarvest s m).2 =
        (bracketsOn s ((hits s m).map (hitBracket s.commandId s.sensorId))).2 := by
  have hcleared : SameSpi s (s.writeByte 0x400 0) := ((StoresOnly.refl s).writeByte _ _).sameSpi
  obtain ⟨hcommands, hreplies⟩ := commandsRun_sameSpi (s.writeByte 0x400 0) s.commandId s.sensorId
    s.ctrl.unkErr ((commands s m).map (commandOf s))
  rw [hitsOf_commands] at hcommands hreplies
  obtain ⟨hafter, hafterReplies⟩ :=
    bracketsOn_sameSpi hcleared ((hits s m).map (hitBracket s.commandId s.sensorId))
  have hpadded := (padded_storesOnly (swapPads s m) (swapHarvest s m).1).sameSpi
  exact ⟨(((hafter.trans hcommands).trans hpadded).trans (overflowed_sameSpi _ _)).trans
    (ended_sameSpi _ _ _), hreplies.trans hafterReplies⟩

theorem brackets_swapEnd (s : State) (m : Nat) :
    Brackets s (swapEnd s m) ((hits s m).map Hit.index)
      ((hits s m).map fun h => masterBytes s.commandId s.sensorId h.value) (swapHarvest s m).2 := by
  obtain ⟨hspi, hreplies⟩ := swapEnd_sameSpi s m
  have hbrackets := brackets_of_pairs hspi
  rwa [← hreplies, List.map_map, List.map_map] at hbrackets

/-- The registers before the padding's error and the result are those after the drops. -/
theorem swapPadded_transferFrame (s : State) (m : Nat) :
    TransferFrame (dropCommands s.ctrl.unkErr (misses s m) s) (swapPadded s m) := by
  have hcleared : TransferFrame s (s.writeByte 0x400 0) :=
    ((StoresOnly.refl s).writeByte _ _).transferFrame
  have hcommands := commandsRun_transferFrame (s.writeByte 0x400 0) s.commandId s.sensorId
    s.ctrl.unkErr ((commands s m).map (commandOf s))
  rw [missesOf_commands] at hcommands
  exact transferFrame_trans (transferFrame_trans (dropCommands_transferFrame hcleared) hcommands)
    (padded_storesOnly _ _).transferFrame

theorem withCounters_overflowed (n : Nat) (s t : State) :
    withCounters s (overflowed n t) = withCounters s t := by
  unfold overflowed
  split
  · rfl
  · rfl

theorem swapEnd_transferFrame (s : State) (m : Nat) :
    TransferFrame s (withCounters s (swapEnd s m)) := by
  have hframe := withCounters_transferFrame (swapPadded_transferFrame s m)
  rw [← withCounters_overflowed (swapExcess s m)] at hframe
  exact transferFrame_ended hframe (hits s m).length (misses s m).length

theorem swapEnd_idle (h : Idle s) (m : Nat) : Idle (swapEnd s m) := by
  have hidle : Idle (withCounters s (swapEnd s m)) :=
    idle_of_transferFrame (swapEnd_transferFrame s m) h
  exact hidle

theorem swapEnd_unkCnt (s : State) (m : Nat) : (swapEnd s m).unkCnt =
    BitVec.ofNat 16 (min (s.unkCnt.toNat + (misses s m).length) 0xFFFF) := by
  have hframe : (swapPadded s m).unkCnt = _ := congrArg State.unkCnt (swapPadded_transferFrame s m)
  exact (overflowed_unkCnt _ _).trans (hframe.trans dropCommands_unkCnt)

theorem swapPadded_errors (s : State) (m : Nat) :
    (swapPadded s m).errKind = (dropCommands s.ctrl.unkErr (misses s m) s).errKind ∧
      (swapPadded s m).lastCause = (dropCommands s.ctrl.unkErr (misses s m) s).lastCause ∧
      (swapPadded s m).errInfo = (dropCommands s.ctrl.unkErr (misses s m) s).errInfo := by
  have hframe : swapPadded s m = _ := swapPadded_transferFrame s m
  exact ⟨(congrArg State.errKind hframe).trans rfl, (congrArg State.lastCause hframe).trans rfl,
    (congrArg State.errInfo hframe).trans rfl⟩

/-- With padding dropped, the error is that of the last padding record (R121). -/
theorem swapEnd_full (hm : m ≤ 38) (hfull : 38 < (hits s m).length + s.ctrl.padCount.toNat) :
    swapEnd s m = ended ((swapPadded s m).record .len 0) (hits s m).length (misses s m).length := by
  rw [swapEnd, overflowed, if_neg (mt (swapExcess_eq_zero_iff hm).1 (Nat.not_le.2 hfull))]

/-- With room for all the padding, the errors are those of the drops. -/
theorem swapEnd_room (hm : m ≤ 38) (hroom : (hits s m).length + s.ctrl.padCount.toNat ≤ 38) :
    swapEnd s m = ended (swapPadded s m) (hits s m).length (misses s m).length := by
  rw [swapEnd, overflowed, if_pos ((swapExcess_eq_zero_iff hm).2 hroom)]

theorem swapEnd_errKind (hm : m ≤ 38) : (swapEnd s m).errKind =
    s.errKind ||| (if s.ctrl.unkErr = true ∧ misses s m ≠ [] then 0x004 else 0) |||
      (if 38 < (hits s m).length + s.ctrl.padCount.toNat then 0x200 else 0) := by
  rw [← dropCommands_errKind, ← (swapPadded_errors s m).1]
  split
  · rename_i hfull
    rw [swapEnd_full hm hfull]
    rfl
  · rename_i hroom
    rw [swapEnd_room hm (Nat.not_lt.1 hroom)]
    exact BitVec.or_zero.symm

theorem swapEnd_lastError (hm : m ≤ 38) (hroom : (hits s m).length + s.ctrl.padCount.toNat ≤ 38) :
    (swapEnd s m).lastCause = (dropCommands s.ctrl.unkErr (misses s m) s).lastCause ∧
      (swapEnd s m).errInfo = (dropCommands s.ctrl.unkErr (misses s m) s).errInfo := by
  rw [swapEnd_room hm hroom]
  exact (swapPadded_errors s m).2

/-! ## The buffers -/

/-- A later state that reads the same holds the same harvest. -/
theorem harvest_congr {t u : State} {hit : List Hit} {replies : List (List Byte)} {total : Nat}
    (h : Harvest s t hit replies total) (hread : ∀ off, u.readByte off = t.readByte off) :
    Harvest s u hit replies total := by
  have hhalf : ∀ off, halfAt u off = halfAt t off := fun off => by rw [halfAt, hread, hread, halfAt]
  refine ⟨(hread _).trans h.count, fun j x r hj hr => ?_, fun j hlow hhigh => ?_,
    fun j x r hj hr hlast => ?_, fun off hbatch hrows => (hread off).trans (h.others off hbatch hrows)⟩
  · rw [hread, hhalf]
    exact h.records j x r hj hr
  · rw [hread, hhalf]
    exact h.padding j hlow hhigh
  · obtain ⟨hrow, hrecord⟩ := h.slaves j x r hj hr hlast
    exact ⟨fun k hk => (hread _).trans (hrow k hk),
      recordAfter_congr (fun _ _ => rfl) (fun _ _ => hread _) hrecord⟩

theorem readByte_swapEnd (s : State) (m off : Nat) :
    (swapEnd s m).readByte off = (swapPadded s m).readByte off :=
  (readByte_ended _ _ _ off).trans (readByte_overflowed _ _ off)

theorem swapHarvest_lengths (s : State) (m : Nat) (hd : s.sensorId ≠ 255) :
    (swapHarvest s m).2.map List.length = ((hits s m).map Hit.index).map fun _ => 4 := by
  rw [(brackets_swapEnd s m).lengths, List.map_map, List.map_map]
  refine List.map_congr_left fun h _ => ?_
  rw [Function.comp_apply, masterBytes, if_neg hd]
  rfl

/-- The sensor records of `SWAP`, before the padding. -/
def sensorRecords (s : State) (m : Nat) : List (Byte × Half) :=
  List.zipWith sensorRecord (hits s m) (swapHarvest s m).2

theorem length_sensorRecords (s : State) (m : Nat) (hd : s.sensorId ≠ 255) :
    (sensorRecords s m).length = (hits s m).length := by
  have hreplies : (swapHarvest s m).2.length = (hits s m).length := by
    simpa only [List.length_map] using congrArg List.length (swapHarvest_lengths s m hd)
  rw [sensorRecords, List.length_zipWith, hreplies, Nat.min_self]

section
variable (hd : s.sensorId ≠ 255) (hslaves : s.params.nSlaves ≤ 24) (hm : m ≤ 38)
include hd hslaves hm

theorem batchHolds_swapHarvest : BatchHolds (swapHarvest s m).1 (sensorRecords s m) := by
  have hfits := fitsBatch_cleared hslaves hm
  rw [← hitsOf_commands] at hfits
  have hrecords := batchHolds_commandsRun (c := s.commandId) (flagged := s.ctrl.unkErr) hd hfits
    (batchHolds_cleared s)
  rwa [List.nil_append, hitsOf_commands] at hrecords

/-- The sensor records, then the padding; the padding leaves every other byte alone. -/
theorem batchHolds_swapPadded :
    BatchHolds (swapPadded s m) (sensorRecords s m ++ List.replicate (swapPads s m) (0, 0)) ∧
      ∀ off, OffBatch ((hits s m).length + swapPads s m) off →
        (swapPadded s m).readByte off = (swapHarvest s m).1.readByte off := by
  have hlen := length_sensorRecords s m hd
  have htotal := swapPads_total (s := s) hm
  rw [← hlen] at htotal ⊢
  exact batchHolds_padded (batchHolds_swapHarvest hd hslaves hm) (by omega)

/-- A byte outside the sensor batch and in no row of a slave reached reads as before. -/
theorem readByte_swapPadded_other {off : Nat} (hoff : OffBatch ((hits s m).length + swapPads s m) off)
    (hrows : ∀ h ∈ hits s m, OffRows h.index 4 off) :
    (swapPadded s m).readByte off = s.readByte off := by
  have hfits := fitsBatch_cleared hslaves hm
  have hcount := (batchHolds_cleared s).count
  have hne : off ≠ 0x400 := by
    rintro rfl
    unfold OffBatch at hoff
    omega
  rw [List.length_nil] at hcount
  rw [(batchHolds_swapPadded hd hslaves hm).2 off hoff, ← readByte_writeByte_other s off 0x400 0 hne]
  rw [← hitsOf_commands] at hfits hrows
  refine readByte_commandsRun_other hd hfits hrows ?_
  rw [hitsOf_commands]
  exact hoff.mono (by omega)

/-- The rows of each slave reached are what its last transaction leaves. -/
theorem swapPadded_slave {j : Nat} {h : Hit} {r : List Byte} (hj : (hits s m)[j]? = some h)
    (hr : (swapHarvest s m).2[j]? = some r) (hlast : LastOfSlave (hits s m) j h) :
    TransactionLeaves s (swapPadded s m) h.index s.commandId s.sensorId h.value r := by
  have hfits := fitsBatch_cleared hslaves hm
  have hindex : h.index < 24 := (hfits.below h (List.mem_of_getElem? hj)).trans_le hslaves
  rw [← hitsOf_commands] at hj hlast hfits
  obtain ⟨hrow, hrecord⟩ := commandsRun_leaves hd hfits hj hr hlast
  have htotal := swapPads_total (s := s) hm
  have hkept := (batchHolds_swapPadded hd hslaves hm).2
  have hrows : ∀ k < 8, _ := fun k hk =>
    offBatch_row (n := (hits s m).length + swapPads s m) hindex hk (by omega)
  have hr4 := length_of_reply (swapHarvest_lengths s m hd) (List.mem_of_getElem? hr)
  refine ⟨fun k hk => ?_, recordAfter_congr (fun k hk => ?_) (fun k hk => ?_) hrecord⟩
  · exact (hkept _ (hrows k (by omega)).1).trans (hrow k hk)
  · exact (readByte_writeByte_other s _ 0x400 0 (by omega)).symm
  · exact hkept _ (hrows k hk).2

theorem harvest_swapPadded : Harvest s (swapPadded s m) (hits s m) (swapHarvest s m).2
    (min 38 ((hits s m).length + s.ctrl.padCount.toNat)) := by
  have hlen := length_sensorRecords s m hd
  have hholds := (batchHolds_swapPadded hd hslaves hm).1
  rw [← swapPads_total hm]
  refine ⟨?_, fun j h r hj hr => ?_, fun j hlow hhigh => ?_, fun j h r hj hr hlast => ?_,
    fun off hbatch hrows => readByte_swapPadded_other hd hslaves hm ?_ hrows⟩
  · rw [← hlen, ← List.length_replicate (n := swapPads s m) (a := ((0 : Byte), (0 : Half))),
      ← List.length_append, ← hholds.count, BitVec.ofNat_toNat, BitVec.setWidth_eq]
  · have hlt := (List.getElem?_eq_some_iff.1 hj).1
    obtain ⟨hid, hvalue⟩ := hholds.record j (sensorRecord h r) (by
      rw [List.getElem?_append_left (hlen.symm ▸ hlt), sensorRecords, List.getElem?_zipWith, hj, hr])
    exact ⟨hid, hvalue.trans (toNat_replyWord r 2)⟩
  · exact hholds.record j (0, 0) (by
      rw [List.getElem?_append_right (hlen.symm ▸ hlow), hlen, List.getElem?_replicate,
        if_pos (by omega)])
  · obtain ⟨hrow, hrecord⟩ := swapPadded_slave hd hslaves hm hj hr hlast
    rw [length_of_reply (swapHarvest_lengths s m hd) (List.mem_of_getElem? hr)] at hrow
    exact ⟨hrow, hrecord⟩
  · rcases Nat.lt_or_ge off 0x400 with hlow | hlow
    · exact .inl hlow
    · exact .inr (Nat.not_lt.1 (hbatch hlow))

theorem harvest_swapEnd : Harvest s (swapEnd s m) (hits s m) (swapHarvest s m).2
    (min 38 ((hits s m).length + s.ctrl.padCount.toNat)) :=
  harvest_congr (harvest_swapPadded hd hslaves hm) (readByte_swapEnd s m)

/-! ## The operation -/

/-- On an idle block the steps of `SWAP` carry out its commands, pad the batch and give its counts. -/
theorem exec_swap (h : Idle s) (hsteps : stepsOf .swap s = .poke 0x400 0 :: swapSteps s m) :
    exec .swap s = .next (swapEnd s m) := by
  have hfits := fitsBatch_cleared hslaves hm
  rw [← hitsOf_commands] at hfits
  have hlen := length_sensorRecords s m hd
  have hle := hits_length_le s m
  have hrecords := batchHolds_swapHarvest hd hslaves hm
  unfold swapHarvest at hrecords
  rw [exec_of_steps h hsteps (by simp), drain_poke, swapSteps, drain_commands hd hfits _ _ _ rfl,
    drain_pads hrecords (by omega), drain_resultSwap, drain_nil, hlen, hitsOf_commands,
    missesOf_commands, Nat.zero_add, Nat.zero_add]
  exact congrArg _ (finish_idle _ (swapEnd_idle h m))

end

end

/-- Settles O38: the three refusals, and the commands of the batch carried out one after another. -/
theorem fanOutAndHarvest : Obligations.FanOutAndHarvest := by
  intro s h hwf
  refine ⟨fun hopen => exec_raise h (stepsSwap_opened hopen),
    fun hclosed h1 h2 h3 => exec_raise h (stepsSwap_badSensor hclosed h1 h2 h3),
    fun hclosed hsensor => ⟨fun hlong => exec_raise h (stepsSwap_tooLong hclosed hsensor hlong),
      fun hm => ?_⟩⟩
  have hslaves := nSlaves_le_of_wf hwf
  have hd := sensorId_ne_all hsensor
  refine ⟨swapEnd s _, (swapHarvest s _).2,
    exec_swap hd hslaves hm h (stepsSwap_fans hclosed hsensor hm),
    brackets_swapEnd s _, harvest_swapEnd hd hslaves hm, rfl, rfl, swapEnd_unkCnt s _,
    swapEnd_errKind hm, fun hfull => ?_, fun hroom hflag id hlast => ?_, fun hroom hquiet => ?_, rfl,
    swapEnd_transferFrame s _⟩
  · rw [swapEnd_full hm hfull]
    exact ⟨rfl, rfl⟩
  · obtain ⟨hcause, hinfo⟩ := swapEnd_lastError hm hroom
    obtain ⟨-, hcauseLast, hinfoLast⟩ := dropCommands_flagged (s := s) hlast
    rw [hflag] at hcause hinfo
    exact ⟨hcause.trans hcauseLast, hinfo.trans hinfoLast⟩
  · obtain ⟨hcause, hinfo⟩ := swapEnd_lastError hm hroom
    obtain ⟨-, hcauseKept, hinfoKept⟩ := dropCommands_unflagged (s := s) hquiet
    exact ⟨hcause.trans hcauseKept, hinfo.trans hinfoKept⟩

end Sys2Proof.Proofs
end

section
/-! SUPPORT. What the byte interrupt of a slave makes of one exchange that is not early (46_slave_peer.md
R127 to R129; 70_reset_and_hazards.md R165), as one equation for each position of the transaction. -/

namespace Sys2Proof.Proofs

open Sys2Proof.Machine Sys2Proof.Safety

/-- A position below the shorter length is below both, so it wraps to itself. -/
theorem mod_bytes_of_lt_four (len : FrameLen) {n : Nat} (h : n < 4) : n % len.bytes = n := by
  cases len with
  | four => exact Nat.mod_eq_of_lt h
  | eight => exact Nat.mod_eq_of_lt (h.trans (by decide))

/-- Before the wrap `Advance` moves the position on and nothing else. -/
theorem advance_of_lt_three (timing : LenTiming) {i : Nat} (h : i < 3) (p : Peer) :
    p.advance timing i = { p with spiIndex := i + 1 } := by
  rw [Peer.advance, mod_bytes_of_lt_four p.maxSpiIndex (Nat.succ_lt_succ h)]
  exact if_neg fun hwrap => Nat.succ_ne_zero i hwrap.1

theorem advance_eq (timing : LenTiming) (i : Nat) (p : Peer) : p.advance timing i = { p with
    spiIndex := (i + 1) % p.maxSpiIndex.bytes
    maxSpiIndex := if (i + 1) % p.maxSpiIndex.bytes = 0 ∧ timing = .previous then p.pendingLen
      else p.maxSpiIndex } := by
  unfold Peer.advance
  dsimp only
  split <;> rfl

/-- The staged byte that follows a position, or a draw where none is left, and the draws after it. -/
def nextLoad (p : Peer) (d : Draws) : Byte × Draws :=
  match p.staged[p.spiIndex - 1]? with
  | some b => (b, d)
  | none => (drawByte d, d.tail)

theorem nextLoad_some {p : Peer} {b : Byte} (h : p.staged[p.spiIndex - 1]? = some b) (d : Draws) :
    nextLoad p d = (b, d) := by
  rw [nextLoad, h]

theorem nextLoad_none {p : Peer} (h : p.staged[p.spiIndex - 1]? = none) (d : Draws) :
    nextLoad p d = (drawByte d, d.tail) := by
  rw [nextLoad, h]

/-- The halves of the command value that `Receive` keeps (R129): an even position holds the low byte, an
odd one completes the value where the command and the trailing rule ask for it. -/
def takeHalf (trailing : Bool) (m : Byte) (p : Peer) : Peer :=
  { p with
    rxLo := if p.spiIndex % 2 = 0 then m else p.rxLo
    desired := if p.spiIndex % 2 = 1 ∧ p.commandId = 1 ∧ (p.spiIndex = 3 ∨ trailing = true) then
      BitVec.ofNat 16 (p.rxLo.toNat + 256 * m.toNat) else p.desired }

theorem receive_eq (trailing : Bool) (m : Byte) {p : Peer} (d : Draws) (h : 2 ≤ p.spiIndex) :
    p.receive trailing p.spiIndex m d =
      ({ takeHalf trailing m p with txReg := (nextLoad p d).1 }, (nextLoad p d).2) := by
  have hhalf : (if (p.spiIndex - 2) % 2 = 0 then { p with rxLo := m }
      else if p.commandId = 1 && (decide (p.spiIndex = 3) || trailing) then
        { p with desired := half p.rxLo m }
      else p) = takeHalf trailing m p := by
    unfold takeHalf
    by_cases heven : p.spiIndex % 2 = 0
    · have hlow : (p.spiIndex - 2) % 2 = 0 := by omega
      simp [heven, hlow]
    · have hodd : p.spiIndex % 2 = 1 := by omega
      have hhigh : (p.spiIndex - 2) % 2 = 1 := by omega
      simp only [hodd, hhigh, half_eq, Bool.and_eq_true, Bool.or_eq_true, decide_eq_true_eq,
        Nat.one_ne_zero, if_false, true_and]
      split <;> rfl
  rw [Peer.receive, hhalf]
  by_cases hleft : p.spiIndex - 1 < p.staged.length
  · rw [if_pos hleft, nextLoad_some (List.getElem?_eq_getElem hleft), ← List.getElem_eq_getD]
  · rw [if_neg hleft, nextLoad_none (List.getElem?_eq_none (Nat.le_of_not_lt hleft))]

section
variable {ps : Params} {start : Nat} {p : Peer} (m : Byte) (d : Draws) (h : p.readyAt ≤ start)
include h

/-- Position 0 (R127). -/
theorem exchange_command (hpos : p.spiIndex = 0) : p.exchange ps start m d =
    (p.txReg, { p with
      commandId := m
      txReg := drawByte d
      spiIndex := 1
      readyAt := start + ps.tSlaveIsr }, d.tail) := by
  rw [Peer.exchange_timely _ _ _ _ _ h, Peer.handle, hpos, if_pos rfl,
    advance_of_lt_three _ (by decide)]
  rfl

/-- Position 1 (R128). -/
theorem exchange_sensor (hpos : p.spiIndex = 1) : p.exchange ps start m d =
    (p.txReg, { (p.stage ps.lenTiming m d).1 with
      spiIndex := 2
      readyAt := start + ps.tSlaveIsr }, (p.stage ps.lenTiming m d).2) := by
  rw [Peer.exchange_timely _ _ _ _ _ h, Peer.handle, hpos, if_neg Nat.one_ne_zero, if_pos rfl,
    advance_of_lt_three _ (by decide)]

/-- From position 2 on (R129). -/
theorem exchange_value (hpos : 2 ≤ p.spiIndex) : p.exchange ps start m d =
    (p.txReg, { takeHalf ps.trailingWrite m p with
      txReg := (nextLoad p d).1
      spiIndex := (p.spiIndex + 1) % p.maxSpiIndex.bytes
      maxSpiIndex := if (p.spiIndex + 1) % p.maxSpiIndex.bytes = 0 ∧ ps.lenTiming = .previous then
        p.pendingLen else p.maxSpiIndex
      readyAt := start + ps.tSlaveIsr }, (nextLoad p d).2) := by
  rw [Peer.exchange_timely _ _ _ _ _ h, Peer.handle, if_neg (by omega), if_neg (by omega),
    receive_eq _ _ _ hpos, advance_eq]
  rfl

end

/-- The length `Stage` sets, by the timing it does not go by. -/
theorem stagedLen_eq (timing : LenTiming) (m : Byte) (len : FrameLen) :
    (if timing = .current then requestLen m else len) =
      if timing = .previous then len else if m = 255 then .eight else .four := by
  cases timing <;> rfl

/-- Settles O29: the equation of each position, read field by field. -/
theorem peerByteInterrupt : Obligations.PeerByteInterrupt := by
  intro ps start m p d h
  refine ⟨fun hpos => exchange_command m d h hpos, fun hpos => ?_, fun hpos => ?_⟩
  · refine ⟨_, _, exchange_sensor m d h hpos, rfl, rfl, rfl, rfl, rfl, rfl, rfl, rfl,
      stagedLen_eq _ _ _, ?_, fun hnone => ?_, fun b rest hsome => ?_⟩
    · simp only [← lo_eq, ← hi_eq]
      rfl
    · replace hnone : stagedBytes m (drawHalf d) (drawHalf d.tail) (drawHalf d.tail.tail) = [] := hnone
      simp only [Peer.stage, hnone]
      exact ⟨rfl, rfl⟩
    · replace hsome : stagedBytes m (drawHalf d) (drawHalf d.tail) (drawHalf d.tail.tail) = b :: rest :=
        hsome
      simp only [Peer.stage, hsome]
      exact ⟨rfl, rfl⟩
  · refine ⟨_, _, exchange_value m d h hpos, rfl, rfl, rfl, rfl, rfl, rfl, rfl, rfl, rfl, rfl,
      fun b hb => ?_, fun hnone => ?_⟩
    · rw [nextLoad_some hb]
      exact ⟨rfl, rfl⟩
    · rw [nextLoad_none hnone]
      exact ⟨rfl, rfl⟩

end Sys2Proof.Proofs
end

section
/-! SUPPORT. The slave peers over one move of any agent (46_slave_peer.md R126; 44_spi_transport.md R98): a
byte exchange steps the selected peer alone, and nothing else reaches the peers. -/

namespace Sys2Proof.Proofs

open Sys2Proof.Machine Sys2Proof.Safety

/-! ## The exchange -/

theorem peerReply_unselected {s : State} {j : Nat} (h : s.selects j = false) (i : Nat) (out : Byte) :
    (s.peerReply i out).2.1[j]? = s.peers[j]? := by
  unfold State.peerReply
  split
  · rfl
  · split
    · rename_i hanswers
      have hne : i ≠ j := by
        rintro rfl
        rw [h, Bool.and_false] at hanswers
        cases hanswers
      exact List.getElem?_set_ne hne
    · rfl

theorem exchange_unselected {s : State} {j : Nat} (h : s.selects j = false) (out : Byte) :
    (s.exchange out).peers[j]? = s.peers[j]? := by
  rw [State.exchange_peers]
  unfold State.busReply
  split
  · rfl
  · exact peerReply_unselected h _ out

/-! ## The other steps of the sequencer -/

theorem raiseError_peers (k : ErrorKind) (info : Half) (loc : Locals) (s : State) :
    (s.raiseError k info loc).peers = s.peers := by
  unfold State.raiseError
  dsimp only
  split <;> rfl

/-- A host byte taken does not reach the peers, so it is left to what is done with it. -/
theorem takeByte_peers {s : State} {k : Byte → State → Progress}
    (hk : ∀ b u, Leads (fun t => t.peers = u.peers) (k b u)) :
    Leads (fun t => t.peers = s.peers) (s.takeByte k) := by
  unfold State.takeByte
  split
  · trivial
  · exact hk _ _

theorem searchStep_peers (loc : Locals) (b : Byte) (s : State) :
    Leads (fun t => t.peers = s.peers) (searchStep loc b s) := by
  unfold searchStep
  dsimp only
  split
  · rfl
  · split
    · exact raiseError_peers _ _ _ _
    · rfl

theorem countStep_peers (loc : Locals) (c : Byte) (s : State) :
    Leads (fun t => t.peers = s.peers) (countStep loc c s) := by
  unfold countStep
  split
  · exact raiseError_peers _ _ _ _
  · rfl

theorem trailerStep_peers (c : Byte) (loc : Locals) (b : Byte) (s : State) :
    Leads (fun t => t.peers = s.peers) (trailerStep c loc b s) := by
  unfold trailerStep
  split
  · rfl
  · split
    · exact raiseError_peers _ _ _ _
    · rfl

theorem appendStep_peers (id : Byte) (v : Half) (loc : Locals) (s : State) :
    Leads (fun t => t.peers = s.peers) (appendStep id v loc s) := by
  unfold appendStep
  dsimp only
  split <;> rfl

/-- No step but a byte exchange reaches the peers. -/
theorem stepMicro_peers {m : Micro} (hm : ∀ out dest, m ≠ .exchange out dest) (loc : Locals)
    (s : State) : Leads (fun t => t.peers = s.peers) (stepMicro m loc s) := by
  cases m with
  | exchange out dest => exact absurd rfl (hm out dest)
  | updateRecord i c d v => exact (updateRecord_sameSpi s i c d v loc.replies).peers
  | append id v => exact appendStep_peers id v loc s
  | appendReply id => exact appendStep_peers id _ _ s
  | searchByte => exact takeByte_peers fun b u => searchStep_peers loc b u
  | takeCount => exact takeByte_peers fun c u => countStep_peers loc c u
  | takeInto off => exact takeByte_peers (k := fun b t => .go (t.writeByte off b) loc []) fun _ _ => rfl
  | takeTrailer c => exact takeByte_peers fun b u => trailerStep_peers c loc b u
  | raise k info => exact raiseError_peers k info loc s
  | setMux | settle | assertCs | raiseCs | releaseCs | sampleAdc | poke | keepReplies | countUnknown
  | startSearch | transmit | result | resultReply8 | resultReply16 | resultTxn | resultSwap
  | resultSearch | keepBatch | setDac | flag => rfl

theorem Leads.mono {P Q : State → Prop} (hPQ : ∀ t, P t → Q t) {r : Progress} (h : Leads P r) :
    Leads Q r := by
  cases r with
  | go t | stops t => exact hPQ t h
  | waits => trivial

theorem stepMicro_unselected {s : State} {j : Nat} (h : s.selects j = false) (m : Micro)
    (loc : Locals) : Leads (fun t => t.peers[j]? = s.peers[j]?) (stepMicro m loc s) := by
  by_cases hm : ∃ out dest, m = .exchange out dest
  · obtain ⟨out, dest, rfl⟩ := hm
    cases dest with
    | discard | rxBuf => exact exchange_unselected h out
  · push Not at hm
    exact (stepMicro_peers hm loc s).mono fun t ht => congrArg (·[j]?) ht

theorem tick_unselected {s : State} {j : Nat} (h : s.selects j = false) :
    (tick s).peers[j]? = s.peers[j]? := by
  unfold tick
  split
  · rfl
  · rename_i r _
    split
    · rfl
    · rename_i m rest _
      have hstep := stepMicro_unselected h m r.loc
      split <;> rename_i hprogress
      · rw [hprogress] at hstep
        exact hstep
      · rfl
      · rw [hprogress] at hstep
        exact hstep

/-! ## The moves of the other agents -/

theorem softReset_peers (s : State) : s.softReset.peers = s.peers := by
  unfold State.softReset
  dsimp only
  split <;> rfl

theorem accept_peers (i : Instr) (todo : List Micro) (s : State) :
    (accept i todo s).peers = s.peers := by
  unfold accept
  split <;> rfl

theorem issue_peers (i : Instr) (s : State) : (issue i s).peers = s.peers := by
  rw [issue_eq]
  split
  · exact softReset_peers s
  · split
    · rfl
    · exact accept_peers i _ s

theorem onCmdWrite_peers (w : Word) (s : State) : (onCmdWrite w s).peers = s.peers := by
  unfold onCmdWrite issueIllegal
  split
  · exact issue_peers _ s
  · split
    · rfl
    · exact raiseError_peers _ _ _ s

theorem clearErrors_peers (w : Word) (s : State) : (s.clearErrors w).peers = s.peers := by
  unfold State.clearErrors
  dsimp only
  split <;> rfl

theorem writeWord_peers (off : Nat) (v : Word) (s : State) : (s.writeWord off v).peers = s.peers :=
  (congrArg State.peers (writeWord_eq s off v)).trans rfl

theorem writeRegistry_peers (off : Nat) (v : Word) (s : State) :
    (s.writeRegistry off v).peers = s.peers := by
  unfold State.writeRegistry
  split
  · rfl
  · exact writeWord_peers off v s

theorem writeIdle_peers (off : Nat) (v : Word) (s : State) : (s.writeIdle off v).peers = s.peers := by
  unfold State.writeIdle
  split
  · rfl
  split
  · rfl
  split
  · rfl
  split
  · rfl
  split
  · exact writeRegistry_peers off v s
  · exact writeWord_peers off v s

theorem portWrite_peers (off : BitVec 12) (width : Nat) (v : Word) (s : State) :
    (s.portWrite off width v).peers = s.peers := by
  unfold State.portWrite
  split
  · split
    · exact onCmdWrite_peers v s
    split
    · split <;> rfl
    split
    · exact clearErrors_peers v s
    split
    · rfl
    · exact writeIdle_peers off.toNat v s
  · rfl

theorem portRead_peers (off : BitVec 12) (width : Nat) (s : State) :
    (s.portRead off width).peers = s.peers := by
  unfold State.portRead
  split
  · split <;> rfl
  · rfl

theorem timeOut_peers (s : State) : s.timeOut.peers = s.peers := by
  unfold State.timeOut
  split
  · rfl
  · split
    · exact raiseError_peers _ _ _ s
    · rfl

/-- Settles O30: only a step of the sequencer can exchange a byte, and then with the selected slave. -/
theorem unselectedPeersKeepTheirState : Obligations.UnselectedPeersKeepTheirState := by
  intro s m j hm h
  cases m with
  | issue w => exact congrArg (·[j]?) (onCmdWrite_peers w s)
  | write off width v => exact congrArg (·[j]?) (portWrite_peers off width v s)
  | read off width => exact congrArg (·[j]?) (portRead_peers off width s)
  | wait => exact absurd rfl hm
  | tick => exact tick_unselected h
  | timeout => exact congrArg (·[j]?) (timeOut_peers s)
  | hostSend | hostTake | elapse | powerOn => rfl

end Sys2Proof.Proofs
end

section
/-! SUPPORT. The slave's side of a transaction in step (46_slave_peer.md R127 to R130; 30_encoding.md R72):
the bytes of one bracket as the peer alone handles them, the staged sensor bytes it answers with, and what
`TXN` keeps of them (44_spi_transport.md R119, R120). -/

namespace Sys2Proof.Proofs

open Sys2Proof.Machine Sys2Proof.Safety

/-! ## The bytes of a bracket at the peer -/

/-- What a run of bytes leaves: the peer, the draws after it, and the peer's replies. -/
structure Served where
  peer : Peer
  draws : Draws
  replies : List Byte

/-- An attached, selected peer exchanges one byte after another, each `T_IB` after the one before
(44_spi_transport.md R99). -/
def serve (ps : Params) (start : Nat) : List Byte → Peer → Draws → Served
  | [], p, d => ⟨p, d, []⟩
  | m :: rest, p, d =>
    let r := p.exchange ps start m d
    let u := serve ps (start + ps.tIb) rest r.2.1 r.2.2
    ⟨u.peer, u.draws, r.1 :: u.replies⟩

theorem serve_cons (ps : Params) (start : Nat) (m : Byte) (rest : List Byte) (p : Peer) (d : Draws)
    {b : Byte} {q : Peer} {d' : Draws} (h : p.exchange ps start m d = (b, q, d')) :
    serve ps start (m :: rest) p d =
      ⟨(serve ps (start + ps.tIb) rest q d').peer, (serve ps (start + ps.tIb) rest q d').draws,
        b :: (serve ps (start + ps.tIb) rest q d').replies⟩ := by
  rw [serve, h]

/-- Whatever an exchange does to a peer, timely or early, its attachment stays (I14; log 8). -/
theorem exchange_attached (ps : Params) (start : Nat) (m : Byte) (p : Peer) (d : Draws) :
    (p.exchange ps start m d).2.1.attached = p.attached := by
  rcases Nat.lt_or_ge start p.readyAt with hearly | htimely
  · rw [Peer.exchange_early _ _ _ _ _ hearly]
    rfl
  · obtain h0 | h1 | h2 : p.spiIndex = 0 ∨ p.spiIndex = 1 ∨ 2 ≤ p.spiIndex := by omega
    · rw [exchange_command m d htimely h0]
    · rw [exchange_sensor m d htimely h1]
      rfl
    · rw [exchange_value m d htimely h2]
      rfl

/-- The bracket of slave `i` is open and the slave is selected, attached and in the state `p`. -/
structure Answers (i : Nat) (p : Peer) (s : State) : Prop where
  bracket : s.bracket = .opened i
  selected : s.selects i = true
  peer : s.peers[i]? = some p
  attached : p.attached = true

theorem selects_mono {s t : State} {i : Nat} (h : s.selects i = true) (hcs : t.cs = s.cs)
    (hmux : t.muxCh = s.muxCh) (hsettled : t.settledAt = s.settledAt) (hnow : s.now ≤ t.now) :
    t.selects i = true := by
  simp only [State.selects, Bool.and_eq_true, decide_eq_true_eq] at h ⊢
  obtain ⟨hlow, hchannel⟩ := h
  rw [hcs, hmux, hsettled]
  exact ⟨hlow, hchannel.trans hnow⟩

section
variable {i : Nat} {p : Peer} {s : State}

theorem Answers.busReply (h : Answers i p s) (m : Byte) : s.busReply m =
    ((p.exchange s.params s.byteStart m s.draws).1,
      s.peers.set i (p.exchange s.params s.byteStart m s.draws).2.1,
      (p.exchange s.params s.byteStart m s.draws).2.2) :=
  busReply_selected s i m p h.bracket h.peer h.attached h.selected

/-- The slave answers the next byte as the peer the exchange leaves. -/
theorem Answers.exchange (h : Answers i p s) (m : Byte) :
    Answers i (p.exchange s.params s.byteStart m s.draws).2.1 (s.exchange m) where
  bracket := h.bracket
  selected := selects_mono h.selected rfl rfl rfl (byteStart_ge s)
  peer := by
    rw [State.exchange_peers, h.busReply]
    exact List.getElem?_set_self (List.getElem?_eq_some_iff.1 h.peer).1
  attached := (exchange_attached _ _ _ _ _).trans h.attached

theorem byteStart_exchange (s : State) (m : Byte) :
    (s.exchange m).byteStart = s.byteStart + s.params.tIb :=
  Nat.max_eq_right (Nat.le_add_right _ _)

/-- A run of bytes on the bus is the run at the peer, early exchanges included. -/
theorem exchanges_eq_serve (h : Answers i p s) (out : List Byte) :
    (exchanges s out).2 = (serve s.params s.byteStart out p s.draws).replies ∧
      (exchanges s out).1.peers[i]? = some (serve s.params s.byteStart out p s.draws).peer := by
  induction out generalizing s p with
  | nil => exact ⟨rfl, h.peer⟩
  | cons m rest ih =>
    have hrest := ih (h.exchange m)
    rw [byteStart_exchange, State.exchange_draws, h.busReply] at hrest
    obtain ⟨hreplies, hpeer⟩ := hrest
    refine ⟨?_, hpeer⟩
    simp only [exchanges, hreplies, State.replyByte, h.busReply]
    rfl

end

/-- After `Begin(i)` slave `i` is selected (R98, R101). -/
theorem answers_begun {s : State} {i : Nat} {p : Peer} (hp : s.peers[i]? = some p)
    (hattached : p.attached = true) : Answers i p (begun s i) where
  bracket := rfl
  selected := by
    have hmux : (opened s i).muxCh = slaveChannel i := setMux_muxCh (slaveChannel i) s
    rw [← opened_eq_begun, State.selects, hmux]
    exact Bool.and_eq_true_iff.2 ⟨by simp [opened, State.assertCs], decide_eq_true (Nat.le_refl _)⟩
  peer := hp
  attached := hattached

/-! ## The staged bytes go out -/

/-- Between two bytes of a transaction that the staged bytes fill: `tx_reg` holds the next of them. -/
structure Streams (p : Peer) : Prop where
  fills : p.maxSpiIndex.bytes = p.staged.length + 2
  position : 2 ≤ p.spiIndex
  loaded : p.staged[p.spiIndex - 2]? = some p.txReg

section
variable {ps : Params} {start : Nat} {p : Peer} (m : Byte) (d : Draws)

theorem Streams.inside (h : Streams p) : p.spiIndex < p.maxSpiIndex.bytes := by
  have hlt := (List.getElem?_eq_some_iff.1 h.loaded).1
  have := h.fills
  have := h.position
  omega

theorem Streams.reply (h : Streams p) : p.staged.drop (p.spiIndex - 2) =
    p.txReg :: p.staged.drop (p.spiIndex - 1) := by
  obtain ⟨hlt, hget⟩ := List.getElem?_eq_some_iff.1 h.loaded
  rw [List.drop_eq_getElem_cons hlt, hget, show p.spiIndex - 2 + 1 = p.spiIndex - 1 by
    have := h.position
    omega]

/-- The last byte wraps the position. -/
theorem Streams.last (h : Streams p) (hready : p.readyAt ≤ start)
    (hlast : p.spiIndex + 1 = p.maxSpiIndex.bytes) :
    (p.exchange ps start m d).2.1.spiIndex = 0 := by
  rw [exchange_value m d hready h.position, hlast, Nat.mod_self]

/-- The peer one byte further in the transaction. -/
def streamed (ps : Params) (start : Nat) (m : Byte) (d : Draws) (p : Peer) : Peer :=
  { takeHalf ps.trailingWrite m p with
    txReg := (nextLoad p d).1
    spiIndex := p.spiIndex + 1
    readyAt := start + ps.tSlaveIsr }

theorem exchange_inside (hready : p.readyAt ≤ start) (hpos : 2 ≤ p.spiIndex)
    (hmore : p.spiIndex + 1 < p.maxSpiIndex.bytes) :
    p.exchange ps start m d = (p.txReg, streamed ps start m d p, (nextLoad p d).2) := by
  rw [exchange_value m d hready hpos, Nat.mod_eq_of_lt hmore, if_neg fun hwrap =>
    Nat.succ_ne_zero p.spiIndex hwrap.1]
  rfl

/-- The byte at position 3 completes the command value, whatever the trailing rule (R129). -/
theorem takeHalf_desired_three (trailing : Bool) (m : Byte) {p : Peer} (h : p.spiIndex = 3) :
    (takeHalf trailing m p).desired = if p.commandId = 1 then
      BitVec.ofNat 16 (p.rxLo.toNat + 256 * m.toNat) else p.desired := by
  simp [takeHalf, h]

/-- The byte at position 2 is the low half of the command value, which is not complete yet (R129). -/
theorem streamed_at_two (m : Byte) (d : Draws) {p : Peer} (h : p.spiIndex = 2) :
    (streamed ps start m d p).rxLo = m ∧ (streamed ps start m d p).desired = p.desired := by
  simp [streamed, takeHalf, h]

theorem Streams.next (h : Streams p) (hmore : p.spiIndex + 1 < p.maxSpiIndex.bytes) :
    Streams (streamed ps start m d p) where
  fills := h.fills
  position := h.position.trans (Nat.le_succ _)
  loaded := by
    have hlt : p.spiIndex - 1 < p.staged.length := by
      have := h.fills
      have := h.position
      omega
    have hget := List.getElem?_eq_getElem hlt
    show p.staged[p.spiIndex + 1 - 2]? = some (nextLoad p d).1
    rw [nextLoad_some hget]
    exact hget

end

/-- The rest of the transaction answers with the staged bytes that are left, and ends it. -/
theorem serve_streams {ps : Params} (hisr : ps.tSlaveIsr ≤ ps.tIb) {start : Nat} {p : Peer} {d : Draws}
    (h : Streams p) (hready : p.readyAt ≤ start) {out : List Byte}
    (hout : p.spiIndex + out.length = p.maxSpiIndex.bytes) :
    (serve ps start out p d).replies = p.staged.drop (p.spiIndex - 2) ∧
      (serve ps start out p d).peer.spiIndex = 0 := by
  induction out generalizing start p d with
  | nil => exact absurd hout (Nat.ne_of_lt h.inside)
  | cons m rest ih =>
    rw [List.length_cons] at hout
    rw [h.reply]
    by_cases hrest : rest = []
    · subst hrest
      refine ⟨?_, h.last m d hready hout⟩
      have hend : p.staged.drop (p.spiIndex - 1) = [] := List.drop_eq_nil_of_le (by
        have := h.fills
        rw [List.length_nil] at hout
        omega)
      rw [serve_cons _ _ _ _ _ _ (exchange_value m d hready h.position), hend]
      rfl
    · have hmore : p.spiIndex + 1 < p.maxSpiIndex.bytes := by
        have := List.length_pos_iff.2 hrest
        omega
      obtain ⟨hreplies, hindex⟩ := ih (start := start + ps.tIb) (d := (nextLoad p d).2)
        (h.next (ps := ps) (start := start) m d hmore) (Nat.add_le_add_left hisr start)
        ((Nat.add_right_comm _ _ _).trans hout)
      rw [serve_cons _ _ _ _ _ _ (exchange_inside m d hready h.position hmore), hreplies]
      exact ⟨rfl, hindex⟩

/-! ## A transaction in step -/

/-- The sensor bytes a transaction stages: the draws after the one at position 0. -/
def sensorStage (m : Byte) (d : Draws) : List Byte :=
  stagedBytes m ((d.peek 1).setWidth 16) ((d.peek 2).setWidth 16) ((d.peek 3).setWidth 16)

/-- The peer after the two header bytes of a transaction (R127, R128). -/
def headed (ps : Params) (start : Nat) (c m : Byte) (p : Peer) (d : Draws) : Peer :=
  { p with
    commandId := c
    sensorId := m
    staged := sensorStage m d
    maxSpiIndex := if ps.lenTiming = .current then requestLen m else p.maxSpiIndex
    pendingLen := requestLen m
    txReg := (sensorStage m d).headD (drawByte (d.skip 4))
    spiIndex := 2
    readyAt := start + ps.tIb + ps.tSlaveIsr }

section
variable {ps : Params} (hisr : ps.tSlaveIsr ≤ ps.tIb) {start : Nat} {p : Peer}
  (hready : p.readyAt ≤ start) (hpos : p.spiIndex = 0) {m : Byte} {d : Draws}
include hisr hready hpos

/-- The two header bytes are answered by what `tx_reg` held and by a draw. -/
theorem serve_header (c : Byte) (values : List Byte) : ∃ d',
    (serve ps start (c :: m :: values) p d).replies = p.txReg :: drawByte d ::
      (serve ps (start + ps.tIb + ps.tIb) values (headed ps start c m p d) d').replies ∧
    (serve ps start (c :: m :: values) p d).peer =
      (serve ps (start + ps.tIb + ps.tIb) values (headed ps start c m p d) d').peer := by
  rw [serve_cons _ _ _ _ _ _ (exchange_command c d hready hpos),
    serve_cons _ _ _ _ _ _ (exchange_sensor m d.tail (Nat.add_le_add_left hisr start) rfl)]
  exact ⟨_, rfl, rfl⟩

/-- The length the transaction runs to is the one its `sensor_id` asks for (R130), and the staged bytes
fill it. -/
theorem serve_transaction (c : Byte) {values : List Byte}
    (hlen : ps.lenTiming = .current ∨ p.maxSpiIndex = requestLen m)
    (hfills : (requestLen m).bytes = (sensorStage m d).length + 2)
    (hvalues : values.length + 2 = (requestLen m).bytes) :
    (serve ps start (c :: m :: values) p d).replies = p.txReg :: drawByte d :: sensorStage m d ∧
      (serve ps start (c :: m :: values) p d).peer.spiIndex = 0 := by
  have hmax : (headed ps start c m p d).maxSpiIndex = requestLen m := by
    show (if ps.lenTiming = .current then requestLen m else p.maxSpiIndex) = requestLen m
    rcases hlen with hcurrent | hswitched
    · rw [if_pos hcurrent]
    · rw [hswitched, ite_self]
  have hstreams : Streams (headed ps start c m p d) := by
    refine ⟨hmax ▸ hfills, Nat.le_refl 2, ?_⟩
    show (sensorStage m d)[0]? = some ((sensorStage m d).headD (drawByte (d.skip 4)))
    cases hstage : sensorStage m d with
    | nil =>
      rw [hstage] at hfills
      cases hreq : requestLen m <;> simp [hreq, FrameLen.bytes] at hfills
    | cons b rest => rfl
  obtain ⟨d', hreplies, hpeer⟩ := serve_header hisr hready hpos (m := m) (d := d) c values
  obtain ⟨hstaged, hindex⟩ := serve_streams hisr (d := d') hstreams
    (Nat.add_le_add_left hisr (start + ps.tIb)) (out := values)
    (by rw [hmax, ← hvalues]; exact Nat.add_comm 2 _)
  rw [hreplies, hpeer, hstaged]
  exact ⟨rfl, hindex⟩

/-- The value that the two bytes after the header bring in is the slave's to hold where the command asks
for it (R129). -/
theorem serve_desired (c : Byte) (v : Half) :
    (serve ps start [c, m, lowByte v, highByte v] p d).peer.desired = if c = 1 then v else p.desired := by
  have hmore : 2 + 1 < (headed ps start c m p d).maxSpiIndex.bytes := by
    cases (headed ps start c m p d).maxSpiIndex <;> decide
  have hvalue : BitVec.ofNat 16 ((lowByte v).toNat + 256 * (highByte v).toNat) = v := by
    rw [toNat_lowByte, toNat_highByte, Nat.mod_add_div, BitVec.ofNat_toNat, BitVec.setWidth_eq]
  obtain ⟨d', -, hpeer⟩ := serve_header hisr hready hpos (m := m) (d := d) c [lowByte v, highByte v]
  have hlow := exchange_inside (ps := ps) (p := headed ps start c m p d) (lowByte v) d'
    (Nat.add_le_add_left hisr (start + ps.tIb)) (Nat.le_refl 2) hmore
  have hhigh := fun u : Draws => exchange_value (ps := ps)
    (p := streamed ps (start + ps.tIb + ps.tIb) (lowByte v) d' (headed ps start c m p d)) (highByte v) u
    (Nat.add_le_add_left hisr (start + ps.tIb + ps.tIb)) (Nat.le_succ 2)
  rw [hpeer, serve_cons _ _ _ _ _ _ hlow, serve_cons _ _ _ _ _ _ (hhigh _)]
  refine (takeHalf_desired_three _ _ rfl).trans ?_
  obtain ⟨hrxLo, hdesired⟩ := streamed_at_two (ps := ps) (start := start + ps.tIb + ps.tIb) (lowByte v)
    d' (p := headed ps start c m p d) rfl
  rw [hrxLo, hdesired, hvalue]
  rfl

end

/-! ## The operation -/

/-- `TXN` to one attached slave ends with what the peer makes of the master's bytes, each `T_IB` after the
one before, the first after the settle time (R99, R101, R119). -/
theorem exec_txn_serves {s : State} {a : Byte} {v : Half} {i : Nat} {p : Peer} (h : Idle s)
    (hclosed : s.bracket = .closed) (hwf : s.params.wf = true) (ht : Targets s a [i])
    (hp : s.peers[i]? = some p) (hattached : p.attached = true) {u : Served}
    (hu : serve s.params (s.now + s.params.tSettle) (masterBytes s.commandId s.sensorId v) p s.draws =
      u) :
    ∃ t, exec (.txn a v) s = .next t ∧ t.peers[i]? = some u.peer ∧
      RecordAfter s t i s.commandId s.sensorId v u.replies ∧
      t.res0 = BitVec.ofNat 16 (wordAt u.replies 2) ∧
      t.res1 = if s.sensorId = 255 then BitVec.ofNat 16 (wordAt u.replies 4) else 0 := by
  obtain ⟨-, -, hknown⟩ := transactions s a v h hwf
  obtain ⟨t, replies, hexec, -, -, hbrackets, hleaves, -, hsingle, -⟩ := hknown hclosed [i] ht
  obtain ⟨hreplies, hpeer⟩ := exchanges_eq_serve (answers_begun hp hattached)
    (masterBytes s.commandId s.sensorId v)
  replace hreplies : replies = [u.replies] := hbrackets.answers.trans
    (congrArg (fun r => [r]) (hreplies.trans (congrArg Served.replies hu)))
  subst hreplies
  obtain ⟨hres0, hres1⟩ := hsingle rfl
  exact ⟨t, hexec, (congrArg (·[i]?) hbrackets.spi.peers).trans
    (hpeer.trans (congrArg (some ·.peer) hu)), (hleaves 0 i u.replies rfl rfl).2, hres0, hres1⟩

/-- The two bytes of a sensor value read back as the value (R9, R120). -/
theorem wordAt_lo_hi (r rest : List Byte) (v : Half) :
    wordAt (r ++ lo v :: hi v :: rest) r.length = v.toNat := by
  simp only [wordAt, List.getD_append_right, Nat.le_refl, Nat.le_succ, Nat.sub_self,
    Nat.add_sub_cancel_left, List.getD_cons_zero, List.getD_cons_succ]
  rw [lo_eq, hi_eq, toNat_lowByte, toNat_highByte, Nat.mod_add_div]

theorem ofNat_wordAt_lo_hi (r rest : List Byte) (v : Half) :
    BitVec.ofNat 16 (wordAt (r ++ lo v :: hi v :: rest) r.length) = v := by
  rw [wordAt_lo_hi, BitVec.ofNat_toNat, BitVec.setWidth_eq]

theorem sensorStage_single {m : Byte} (hm : m = 1 ∨ m = 2 ∨ m = 3) (d : Draws) :
    sensorStage m d = [lo ((d.peek m.toNat).setWidth 16), hi ((d.peek m.toNat).setWidth 16)] := by
  rcases hm with rfl | rfl | rfl <;> rfl

theorem requestLen_single {m : Byte} (hm : m ≠ 255) : requestLen m = .four := if_neg hm

/-- Settles O37: the peer's replies are the bytes it staged from the draws, and the transaction wraps its
position. -/
theorem transactionsInStepReadSensors : Obligations.TransactionsInStepReadSensors := by
  intro s a v i p h hclosed hwf hisr ht hp hready hattached hpos
  refine ⟨fun hsensor hlen => ?_, fun hall hlen => ?_⟩
  · have hne := sensorId_ne_all hsensor
    have hreq := requestLen_single hne
    have hbytes : masterBytes s.commandId s.sensorId v =
      [s.commandId, s.sensorId, lowByte v, highByte v] := if_neg hne
    have hstage := sensorStage_single hsensor s.draws
    obtain ⟨t, hexec, hpeer, -, hres0, hres1⟩ := exec_txn_serves (v := v) h hclosed hwf ht hp hattached
      (congrArg (fun out => serve s.params (s.now + s.params.tSettle) out p s.draws) hbytes)
    obtain ⟨hreplies, hindex⟩ := serve_transaction hisr hready hpos (d := s.draws) s.commandId
      (values := [lowByte v, highByte v]) (hreq ▸ hlen) (by rw [hreq, hstage]; rfl) (by rw [hreq]; rfl)
    refine ⟨t, _, hexec, hpeer, hindex, ?_, hres1.trans (if_neg hne),
      serve_desired hisr hready hpos s.commandId v⟩
    rw [hres0, hreplies, hstage]
    exact ofNat_wordAt_lo_hi [p.txReg, drawByte s.draws] [] _
  · have hbytes : masterBytes s.commandId s.sensorId v =
      [s.commandId, 255, lowByte v, highByte v, 0, 0, 0, 0] := if_pos hall
    obtain ⟨t, hexec, hpeer, hrecord, hres0, hres1⟩ := exec_txn_serves (v := v) h hclosed hwf ht hp
      hattached (congrArg (fun out => serve s.params (s.now + s.params.tSettle) out p s.draws) hbytes)
    obtain ⟨hreplies, hindex⟩ := serve_transaction hisr hready hpos (m := 255) (d := s.draws)
      s.commandId (values := [lowByte v, highByte v, 0, 0, 0, 0]) hlen rfl rfl
    rw [if_pos hall, hreplies] at hres1
    rw [hreplies] at hres0 hrecord
    obtain ⟨-, -, hjoint, -⟩ := hrecord
    rw [hall, if_neg (by decide), if_pos rfl] at hjoint
    refine ⟨t, _, hexec, hpeer, hindex,
      hres0.trans (ofNat_wordAt_lo_hi [p.txReg, drawByte s.draws] _ _),
      hres1.trans (ofNat_wordAt_lo_hi [p.txReg, drawByte s.draws, _, _] _ _),
      hjoint.trans ((wordAt_lo_hi [p.txReg, drawByte s.draws, _, _, _, _] [] _).trans ?_)⟩
    exact BitVec.toNat_setWidth ..

end Sys2Proof.Proofs
end

section
/-! SUPPORT. The framing operations on the sensor batch run on an idle block (47_framing.md R133, R136 to
R139): the record bytes in the order of the wire, their checksum as a sum of numbers, and the frame. -/

namespace Sys2Proof.Proofs

open Sys2Proof.Machine Sys2Proof.Safety

/-! ## The record bytes and their checksum -/

/-- The records of a batch, three bytes each, are the bytes after its count. -/
theorem batchBody_eq (s : State) (base c : Nat) :
    s.batchBody base c = (List.range (3 * c)).map fun j => s.readByte (base + 1 + j) := by
  induction c with
  | zero => rfl
  | succ c ih =>
    have hbody : s.batchBody base (c + 1) = s.batchBody base c ++ s.recordBytes base c := by
      simp [State.batchBody, List.range_succ]
    have hoff (k : Nat) : base + (k + 1) + 3 * c = base + 1 + (3 * c + k) := by omega
    rw [hbody, ih, State.recordBytes, Nat.mul_succ, List.range_succ, List.range_succ, List.range_succ]
    simp [hoff 0, hoff 1, hoff 2]

/-- A byte sum that wraps around is the sum of the numbers (R70). -/
theorem foldl_add_ofNat (bs : List Byte) (n : Nat) :
    bs.foldl (· + ·) (BitVec.ofNat 8 n) = BitVec.ofNat 8 (n + (bs.map BitVec.toNat).sum) := by
  induction bs generalizing n with
  | nil => rfl
  | cons b bs ih =>
    have hb : BitVec.ofNat 8 n + b = BitVec.ofNat 8 (n + b.toNat) := by
      rw [BitVec.ofNat_add, BitVec.ofNat_toNat, BitVec.setWidth_eq]
    rw [List.foldl_cons, hb, ih, List.map_cons, List.sum_cons, Nat.add_assoc]

theorem checksum_eq (s : State) (base c : Nat) :
    s.checksum base c = checksumOf s c (s.batchBody base c) := by
  have hseed : s.checksumSeed =
      BitVec.ofNat 8 (if s.ctrl.ckSeed then 0xFF * markerLen s else 0) := by
    rw [State.checksumSeed]
    split <;> rfl
  rw [State.checksum, hseed, ← BitVec.ofNat_add, foldl_add_ofNat, checksumOf]

theorem trailerOf_eq (s : State) (base c : Nat) :
    s.trailerOf base c = trailer s c (s.batchBody base c) := by
  rw [State.trailerOf, checksum_eq, trailer]

theorem batchBody_sensBatch (s : State) (c : Nat) : s.batchBody sensBatchBase c = sensorBytes s c :=
  batchBody_eq s sensBatchBase c

@[simp] theorem length_sensorBytes (s : State) (c : Nat) : (sensorBytes s c).length = 3 * c := by
  simp [sensorBytes]

theorem zext_eq_toHalf (b : Byte) : zext b = toHalf b.toNat := zext_eq b

/-! ## States that differ in the buffers only -/

section
variable {s t : State} (hstores : StoresOnly s t)
include hstores

theorem StoresOnly.idle (h : Idle s) : Idle t := (congrArg State.seq hstores).trans h

theorem StoresOnly.ended (r0 r1 : Nat) : StoresOnly (ended s r0 r1) (ended t r0 r1) := by
  unfold StoresOnly at hstores ⊢
  rw [hstores]
  rfl

end

/-! ## The frame of the sensor batch -/

section
variable {s : State} {c : Nat}

theorem stepsWrbatch_tooLong (hcount : (s.readByte 0x400).toNat = c) (hlong : 38 < c) :
    stepsOf .wrbatch s = [.raise .len (toHalf c)] := by
  subst hcount
  exact if_pos hlong

theorem stepsWrbatch_frame (hcount : (s.readByte 0x400).toNat = c) (hle : c ≤ 38) :
    stepsOf .wrbatch s = (frameOf s c).map Micro.transmit ++
      [.result (toHalf (markerLen s + 1 + 3 * c + 1))
        (toHalf (trailer s c (sensorBytes s c)).toNat)] := by
  have hframe : frameBytes s c = frameOf s c := by
    rw [frameBytes, trailerOf_eq, batchBody_sensBatch]
    rfl
  rw [← hframe, ← zext_eq_toHalf, ← batchBody_sensBatch, ← trailerOf_eq]
  subst hcount
  exact if_neg (Nat.not_lt.2 hle)

end

/-- Settles O42: the frame goes to `TX` byte by byte, then the result. -/
theorem writeBatch : Obligations.WriteBatch := by
  refine fun s h => ⟨fun hlong => exec_raise h (stepsWrbatch_tooLong rfl hlong), fun hle => ?_⟩
  have hsent : Idle { s with tx := s.tx ++ frameOf s (s.readByte 0x400).toNat } := h
  rw [exec_of_steps h (stepsWrbatch_frame rfl hle) (by simp), drain_transmitAll, drain_lastResult hsent]
  rfl

/-! ## The checksum of the sensor batch -/

section
variable {s : State} {c : Nat}

theorem stepsCksumtx_tooLong (hcount : (s.readByte 0x400).toNat = c) (hlong : 38 < c) :
    stepsOf .cksumtx s = [.raise .len (toHalf c)] := by
  subst hcount
  exact if_pos hlong

theorem stepsCksumtx_sum (hcount : (s.readByte 0x400).toNat = c) (hle : c ≤ 38) :
    stepsOf .cksumtx s = [.result (toHalf (checksumOf s c (sensorBytes s c)).toNat) (toHalf 0)] := by
  rw [← zext_eq_toHalf, ← batchBody_sensBatch, ← checksum_eq]
  subst hcount
  exact if_neg (Nat.not_lt.2 hle)

end

/-- Settles O43: `CKSUMTX` is a refusal, or its sum as the result. -/
theorem checksumOfTheBatch : Obligations.ChecksumOfTheBatch := fun _ h =>
  ⟨fun hlong => exec_raise h (stepsCksumtx_tooLong rfl hlong),
    fun hle => exec_result h (stepsCksumtx_sum rfl hle)⟩

/-! ## A batch cleared -/

theorem byteExists_cmdBatch {p : Params} {off : Nat} (hlow : 0x300 ≤ off) (hhigh : off < 0x373) :
    byteExists p off = true := by
  have hbatch : inRange cmdBatchBase batchBytes off = true := by
    rw [inRange, Bool.and_eq_true, decide_eq_true_eq, decide_eq_true_eq, cmdBatchBase, batchBytes]
    omega
  simp [byteExists, hbatch]

/-- An operation whose one step stores a byte. -/
theorem exec_poke {s : State} (h : Idle s) {i : Instr} {off : Nat} {b : Byte}
    (hexists : byteExists s.params off = true) (hsteps : stepsOf i s = [.poke off b]) :
    ∃ t, exec i s = .next t ∧ t = { s with done := true, mem := t.mem } ∧ t.readByte off = b ∧
      ∀ a, a ≠ off → t.readByte a = s.readByte a := by
  have hstored : Idle (s.writeByte off b) := h
  refine ⟨{ s.writeByte off b with done := true }, ?_, rfl, readByte_writeByte_same s off b hexists,
    fun a ha => readByte_writeByte_other s a off b ha⟩
  rw [exec_of_steps h hsteps (by simp), drain_poke, drain_nil, finish_idle _ hstored]

/-- Settles O44: each selector stores its count byte, and a selector above 1 is refused. -/
theorem clearBatch : Obligations.ClearBatch := by
  refine fun s h => ⟨exec_poke h (byteExists_sensBatch (by decide) (by decide)) rfl,
    exec_poke h (byteExists_cmdBatch (by decide) (by decide)) rfl, fun k hk _ => exec_raise h ?_⟩
  show stepsClrbatch k = _
  rw [stepsClrbatch, if_neg (by omega), if_neg (by omega)]

/-! ## A record appended -/

section
variable {s : State} {c : Nat}

theorem stepsPutrec_full (hfull : 38 ≤ (s.readByte 0x400).toNat) (id : Byte) (v : Half) :
    stepsOf (.putrec id v) s = [.raise .len (toHalf id.toNat)] := by
  rw [← zext_eq_toHalf]
  exact if_pos hfull

theorem stepsPutrec_room (hcount : (s.readByte 0x400).toNat = c) (hroom : c < 38) (id : Byte) (v : Half) :
    stepsOf (.putrec id v) s = [.append id v, .result (toHalf (c + 1)) (toHalf 0)] := by
  subst hcount
  exact if_neg (Nat.not_le.2 hroom)

theorem exec_putrec_room (h : Idle s) (hcount : (s.readByte 0x400).toNat = c) (hroom : c < 38)
    (id : Byte) (v : Half) :
    exec (.putrec id v) s = .next (ended (s.withRecord id v) (c + 1) 0) := by
  have hbatch : s.batchCount sensBatchBase < Config.sensMax := hcount.trans_lt hroom
  have hidle := (withRecord_storesOnly s id v).idle h
  rw [exec_of_steps h (stepsPutrec_room hcount hroom id v) (by simp), drain_append, if_pos hbatch,
    drain_lastResult hidle]

theorem halfAt_withRecord (hcount : (s.readByte 0x400).toNat = c) (hroom : c < 38) (id : Byte) (v : Half) :
    halfAt (s.withRecord id v) (0x402 + 3 * c) = v.toNat := by
  have hread := readByte_withRecord hcount hroom id v
  have hlow : (s.withRecord id v).readByte (0x402 + 3 * c) = lowByte v := by
    rw [hread, if_neg (by omega), if_neg (by omega), if_pos (by omega), lo_eq]
  have hhigh : (s.withRecord id v).readByte (0x402 + 3 * c + 1) = highByte v := by
    rw [hread, if_neg (by omega), if_pos (by omega), hi_eq]
  rw [halfAt, hlow, hhigh, toNat_lowByte, toNat_highByte]
  exact Nat.mod_add_div v.toNat 256

end

/-- Settles O45: a batch with room takes the record, and a full one refuses it. -/
theorem putRecord : Obligations.PutRecord := by
  refine fun s id v h => ⟨fun hfull => exec_raise h (stepsPutrec_full hfull id v), fun hroom => ?_⟩
  have hread := readByte_withRecord rfl hroom id v
  refine ⟨_, exec_putrec_room h rfl hroom id v, (withRecord_storesOnly s id v).ended _ _,
    ?_, ?_, ?_, fun off hcount hid hlow hhigh => ?_⟩
  · rw [readByte_ended, hread, if_pos (by omega), BitVec.toNat_ofNat]
    omega
  · rw [readByte_ended, hread, if_neg (by omega), if_neg (by omega), if_neg (by omega), if_pos (by omega)]
  · rw [halfAt, readByte_ended, readByte_ended]
    exact halfAt_withRecord rfl hroom id v
  · rw [readByte_ended, hread, if_neg hcount, if_neg hhigh, if_neg hlow, if_neg hid]

end Sys2Proof.Proofs
end

section
/-! SUPPORT. The framing operations that take host bytes, run on an idle block (47_framing.md R132, R134,
R135): the search, the records of a frame stored in the command batch, the three ends of the trailer check,
and a frame written by one block and read by another. -/

namespace Sys2Proof.Proofs

open Sys2Proof.Machine Sys2Proof.Safety

/-! ## The search as a whole operation -/

/-- The marker found, and the bytes before `more` taken. -/
def synced (s : State) (more : List Byte) : State :=
  { s with rx := more, window := List.replicate (markerLen s) 0xFF }

/-- The search limit spent (R132). -/
def spent (s : State) : State :=
  { s with rx := s.rx.drop s.syncLim.toNat, window := windowAfter s s.syncLim.toNat }

/-- A raise by an operation that opened no bracket, in the terms of the statements. -/
theorem raiseError_idle_of_not_own {s : State} {loc : Locals} (h : Idle s)
    (hown : loc.ownBracket = false) (k : ErrorKind) (n : Nat) :
    s.raiseError k (toHalf n) loc = refusal s k n := by
  have hidle : Idle (s.record k (toHalf n)) := h
  rw [raiseError_of_not_own k _ (.inr hown), finish_idle _ hidle]
  rfl

/-- Settles O40: the three ends of a search, each carried to the end of the operation or its wait. -/
theorem markerSearch : Obligations.MarkerSearch := by
  intro s h
  have hexec : exec .sync s = .next (drain (s.runningAt .sync (searchSteps ++ [.resultSearch]) {})) :=
    exec_of_steps h rfl (by simp)
  refine ⟨fun n hfound => ?_, fun hfails => ?_, fun hwaits => ⟨_, hexec, ?_⟩⟩
  · have hsynced : Idle (synced s (s.rx.drop n)) := h
    rw [hexec, drain_search_found _ _ _ _ _ hfound, drain_resultSearch, drain_nil]
    exact congrArg Host.Outcome.next (finish_idle _ hsynced)
  · have hspent : Idle (spent s) := h
    rw [hexec, drain_search_fails _ _ _ _ hfails]
    exact congrArg Host.Outcome.next (raiseError_idle_of_not_own hspent rfl _ _)
  · rw [drain_search_waits _ _ _ _ hwaits]
    exact ⟨rfl, rfl⟩

/-! ## States that differ in the buffers only -/

section
variable {s t : State} (hstores : StoresOnly s t)
include hstores

theorem StoresOnly.withRx (bs : List Byte) : StoresOnly { s with rx := bs } { t with rx := bs } := by
  unfold StoresOnly at hstores ⊢
  rw [hstores]

theorem StoresOnly.record (k : ErrorKind) (info : Half) :
    StoresOnly (s.record k info) (t.record k info) := by
  unfold StoresOnly at hstores ⊢
  rw [hstores]
  rfl

theorem StoresOnly.raise (h : Idle s) {loc : Locals} (hown : loc.ownBracket = false) (k : ErrorKind)
    (n : Nat) : StoresOnly (refusal s k n) (t.raiseError k (toHalf n) loc) := by
  rw [raiseError_idle_of_not_own (hstores.idle h) hown]
  unfold StoresOnly at hstores ⊢
  rw [hstores]
  rfl

end

/-! ## The command batch -/

/-- The count cleared and the record bytes stored, the bytes before `more` taken (R135). -/
def recordsRead (s : State) (records more : List Byte) : State :=
  ((synced s more).writeByte 0x300 0).writeBytes 0x301 records

theorem recordsRead_storesOnly (s : State) (records more : List Byte) :
    StoresOnly (synced s more) (recordsRead s records more) :=
  ((StoresOnly.refl _).writeByte 0x300 0).trans (writeBytes_frame _ _ _)

section
variable {s t u : State} {c : Byte} {records more : List Byte}

theorem readByte_recordsRead (hlen : records.length ≤ 114) (off : Nat) :
    (recordsRead s records more).readByte off =
      if 0x301 ≤ off ∧ off < 0x301 + records.length then records.getD (off - 0x301) 0
      else if off = 0x300 then 0 else s.readByte off := by
  rw [recordsRead, readByte_writeBytes _ _ _ _ fun k hk =>
    byteExists_cmdBatch (by omega) (by omega), readByte_writeByte]
  simp only [byteExists_cmdBatch (p := (synced s more).params) (off := 0x300) (by decide) (by decide),
    and_true]
  rfl

theorem loadsBatch_recordsRead (hlen : records.length ≤ 114) :
    LoadsBatch s (recordsRead s records more) 0 records := by
  refine ⟨?_, fun k hk => ?_, fun off hcount hoff => ?_⟩
  · rw [readByte_recordsRead hlen, if_neg (by omega), if_pos rfl]
  · rw [readByte_recordsRead hlen, if_pos (by omega), Nat.add_sub_cancel_left]
  · have hout : ¬ (0x301 ≤ off ∧ off < 0x301 + records.length) := fun hin =>
      hoff (off - 0x301) (by omega) (by omega)
    rw [readByte_recordsRead hlen, if_neg hout, if_neg hcount]

/-- What a batch holds depends on the bytes alone. -/
theorem loadsBatch_congr (h : LoadsBatch s t c records) (hread : ∀ off, u.readByte off = t.readByte off) :
    LoadsBatch s u c records := by
  unfold LoadsBatch
  simp only [hread]
  exact h

/-- The count makes the records valid. -/
theorem loadsBatch_setCount {b : Byte} (h : LoadsBatch s t b records) (c : Byte) :
    LoadsBatch s (t.writeByte 0x300 c) c records := by
  obtain ⟨-, hrecords, hothers⟩ := h
  refine ⟨readByte_writeByte_same _ _ _ (byteExists_cmdBatch (by decide) (by decide)), fun k hk => ?_,
    fun off hcount hoff => ?_⟩
  · rw [readByte_writeByte_other _ _ _ _ (by omega), hrecords k hk]
  · rw [readByte_writeByte_other _ _ _ _ hcount, hothers off hcount hoff]

/-- The expected trailer is that of the records just stored (R133). -/
theorem trailerOf_recordsRead (hcount : c.toNat ≤ 38) (hlen : records.length = 3 * c.toNat) :
    (recordsRead s records more).trailerOf cmdBatchBase c.toNat = trailer s c.toNat records := by
  have hbody : (recordsRead s records more).batchBody cmdBatchBase c.toNat = records := by
    rw [batchBody_eq, ← hlen]
    refine List.ext_getElem (by simp) fun j hj hj' => ?_
    have hoff : cmdBatchBase + 1 + j = 0x301 + j := rfl
    rw [List.getElem_map, List.getElem_range, hoff, readByte_recordsRead (by omega), if_pos (by omega),
      Nat.add_sub_cancel_left, List.getD_eq_getElem _ _ hj']
  have hctrl : (recordsRead s records more).ctrl = s.ctrl :=
    (congrArg State.ctrl (recordsRead_storesOnly s records more)).trans rfl
  rw [trailerOf_eq, hbody]
  simp only [trailer, checksumOf, markerLen, hctrl]

end

/-! ## The steps of `RDBATCH` -/

section
variable {s : State} (h : Idle s)
include h

theorem exec_rdbatch : exec .rdbatch s =
    .next (drain ((s.writeByte 0x300 0).runningAt .rdbatch (searchSteps ++ [.takeCount]) {})) := by
  have hsteps : stepsOf .rdbatch s = .poke 0x300 0 :: (searchSteps ++ [.takeCount]) := rfl
  rw [exec_of_steps h hsteps (by simp), drain_poke]

theorem exec_rdbatch_fails (hfails : SearchFails s) : exec .rdbatch s =
    .next (((spent s).writeByte 0x300 0).raiseError .desync (toHalf s.syncLim.toNat)
      { taken := s.syncLim.toNat - 1 }) := by
  have hcleared : SearchFails (s.writeByte 0x300 0) := hfails
  rw [exec_rdbatch h, drain_search_fails _ _ _ _ hcleared]
  rfl

theorem exec_rdbatch_found {n : Nat} {c : Byte} {body : List Byte} (hfound : FoundAt s n)
    (hbytes : s.rx.drop n = c :: body) : exec .rdbatch s =
      .next (if 38 < c.toNat then
        ((synced s body).writeByte 0x300 0).raiseError .len (toHalf c.toNat) { taken := n }
      else drain (((synced s body).writeByte 0x300 0).runningAt .rdbatch (readRecords s.ctrl.rxChk c)
        { taken := n })) := by
  have hcleared : FoundAt (s.writeByte 0x300 0) n := hfound
  rw [exec_rdbatch h, drain_search_found _ _ _ _ n hcleared, drain_takeCount _ _ _ _ c body hbytes,
    zext_eq_toHalf, List.append_nil]
  rfl

end

/-! ## A frame that can be read -/

/-- `RX` holds a frame of `c` records whose marker is found after `n` bytes, and `more` after its
records (30_encoding.md R68). -/
structure FrameAhead (s : State) (n : Nat) (c : Byte) (records more : List Byte) : Prop where
  found : FoundAt s n
  bytes : s.rx.drop n = c :: (records ++ more)
  count : c.toNat ≤ 38
  length : records.length = 3 * c.toNat

section
variable {s : State} {n : Nat} {c : Byte} {records more : List Byte}

theorem exec_rdbatch_records (h : Idle s) (hframe : FrameAhead s n c records more) :
    exec .rdbatch s = .next (drain ((recordsRead s records more).runningAt .rdbatch
      ((if s.ctrl.rxChk = .none then [] else [.takeTrailer c]) ++ [.keepBatch c]) { taken := n })) := by
  rw [exec_rdbatch_found h hframe.found hframe.bytes, if_neg (Nat.not_lt.2 hframe.count), readRecords,
    ← hframe.length, List.append_assoc, drain_takeAll _ _ _ _ _ records more rfl]
  rfl

theorem FrameAhead.loads (hframe : FrameAhead s n c records more) :
    LoadsBatch s (recordsRead s records more) 0 records :=
  loadsBatch_recordsRead (by have := hframe.count; have := hframe.length; omega)

/-- `RDBATCH` ends with its records valid (R135). -/
theorem keepBatch_loads {t u : State} (ht : Idle t) (hstores : StoresOnly t u)
    (hloads : LoadsBatch s u 0 records) (c tr : Byte) :
    LoadsBatch s (u.keepBatch c (zext tr)) c records ∧
      StoresOnly (ended t c.toNat tr.toNat) (u.keepBatch c (zext tr)) := by
  have hkept := hstores.writeByte 0x300 c
  have hend : u.keepBatch c (zext tr) = ended (u.writeByte 0x300 c) c.toNat tr.toNat := by
    rw [State.keepBatch, zext_eq, zext_eq]
    exact finish_idle _ (hkept.idle ht)
  rw [hend]
  exact ⟨loadsBatch_congr (loadsBatch_setCount hloads c) (readByte_ended _ _ _), hkept.ended _ _⟩

/-- With no check the trailer is not taken. -/
theorem rdbatch_unchecked (h : Idle s) (hframe : FrameAhead s n c records more)
    (hcheck : s.ctrl.rxChk = .none) : ∃ t, exec .rdbatch s = .next t ∧ LoadsBatch s t c records ∧
      StoresOnly (synced (ended s c.toNat 0) more) t := by
  have hsynced : Idle (synced s more) := h
  refine ⟨_, ?_, keepBatch_loads hsynced (recordsRead_storesOnly s records more) hframe.loads c 0⟩
  rw [exec_rdbatch_records h hframe, if_pos hcheck, List.nil_append, drain_keepBatch]

end

section
variable {s : State} {n : Nat} {c tr : Byte} {records rest : List Byte} (h : Idle s)
  (hframe : FrameAhead s n c records (tr :: rest))

/-- The trailer taken. -/
def trailerTaken (s : State) (records : List Byte) (tr : Byte) (rest : List Byte) : State :=
  { recordsRead s records (tr :: rest) with rx := rest }

theorem trailerTaken_storesOnly (s : State) (records : List Byte) (tr : Byte) (rest : List Byte) :
    StoresOnly (synced s rest) (trailerTaken s records tr rest) :=
  (recordsRead_storesOnly s records (tr :: rest)).withRx rest

include h hframe

theorem exec_rdbatch_checked (hcheck : s.ctrl.rxChk ≠ .none) : exec .rdbatch s = .next
    (if tr = trailer s c.toNat records then (trailerTaken s records tr rest).keepBatch c (zext tr)
    else if s.ctrl.rxChk = .discard then
      (trailerTaken s records tr rest).raiseError .checksum (zext tr) { taken := n }
    else ((trailerTaken s records tr rest).record .checksum (zext tr)).keepBatch c (zext tr)) := by
  have hstores := recordsRead_storesOnly s records (tr :: rest)
  have hrx : (recordsRead s records (tr :: rest)).rx = tr :: rest :=
    (congrArg State.rx hstores).trans rfl
  have hrxChk : (recordsRead s records (tr :: rest)).ctrl.rxChk = s.ctrl.rxChk :=
    (congrArg (Ctrl.rxChk ∘ State.ctrl) hstores).trans rfl
  rw [exec_rdbatch_records h hframe, if_neg hcheck, List.singleton_append,
    drain_takeTrailer _ _ _ _ c tr rest hrx, trailerOf_recordsRead hframe.count hframe.length, hrxChk]
  simp only [drain_keepBatch]
  rfl

theorem rdbatch_matches (hcheck : s.ctrl.rxChk ≠ .none) (hmatch : tr = trailer s c.toNat records) :
    ∃ t, exec .rdbatch s = .next t ∧ LoadsBatch s t c records ∧
      StoresOnly (synced (ended s c.toNat tr.toNat) rest) t := by
  have hsynced : Idle (synced s rest) := h
  refine ⟨_, ?_, keepBatch_loads hsynced (trailerTaken_storesOnly s records tr rest) hframe.loads c tr⟩
  rw [exec_rdbatch_checked h hframe hcheck, if_pos hmatch]

theorem rdbatch_reports (hreport : s.ctrl.rxChk = .report) (hwrong : tr ≠ trailer s c.toNat records) :
    ∃ t, exec .rdbatch s = .next t ∧ LoadsBatch s t c records ∧
      StoresOnly (synced (ended (refusal s .checksum tr.toNat) c.toNat tr.toNat) rest) t := by
  have hflagged : Idle ((synced s rest).record .checksum (toHalf tr.toNat)) := h
  refine ⟨_, ?_, keepBatch_loads hflagged
    ((trailerTaken_storesOnly s records tr rest).record .checksum _) hframe.loads c tr⟩
  rw [exec_rdbatch_checked h hframe (by simp [hreport]), if_neg hwrong, if_neg (by simp [hreport]),
    zext_eq_toHalf]

theorem rdbatch_discards (hdiscard : s.ctrl.rxChk = .discard) (hwrong : tr ≠ trailer s c.toNat records) :
    ∃ t, exec .rdbatch s = .next t ∧ LoadsBatch s t 0 records ∧
      StoresOnly (synced (refusal s .checksum tr.toNat) rest) t := by
  have hsynced : Idle (synced s rest) := h
  have hstores := trailerTaken_storesOnly s records tr rest
  refine ⟨(trailerTaken s records tr rest).raiseError .checksum (toHalf tr.toNat) { taken := n }, ?_, ?_,
    hstores.raise hsynced rfl _ _⟩
  · rw [exec_rdbatch_checked h hframe (by simp [hdiscard]), if_neg hwrong, if_pos hdiscard,
      zext_eq_toHalf]
  · rw [raiseError_idle_of_not_own (hstores.idle hsynced) rfl]
    exact hframe.loads

end

/-- A raise before any record leaves the batch empty. -/
theorem raise_leavesEmpty {s t : State} {loc : Locals} (ht : Idle t) (hmem : t.mem = s.mem)
    (hparams : t.params = s.params) (hown : loc.ownBracket = false) (k : ErrorKind) (n : Nat) :
    LoadsBatch s ((t.writeByte 0x300 0).raiseError k (toHalf n) loc) 0 [] ∧
      StoresOnly (refusal t k n) ((t.writeByte 0x300 0).raiseError k (toHalf n) loc) := by
  have hstores := (StoresOnly.refl t).writeByte 0x300 0
  have hempty : LoadsBatch s t (t.readByte 0x300) [] :=
    ⟨rfl, nofun, fun off _ _ => readByte_congr s t hmem hparams off⟩
  refine ⟨?_, hstores.raise ht hown k n⟩
  rw [raiseError_idle_of_not_own (hstores.idle ht) hown]
  exact loadsBatch_setCount hempty 0

/-- Settles O41: the search, the count and the trailer each end `RDBATCH` or let it go on. -/
theorem readBatch : Obligations.ReadBatch := by
  refine fun s h => ⟨fun hfails => ?_, fun n c body hfound hbytes =>
    ⟨fun hlong => ?_, fun hle records more hbody hlen => ?_⟩⟩
  · have hspent : Idle (spent s) := h
    exact ⟨_, exec_rdbatch_fails h hfails, raise_leavesEmpty hspent rfl rfl rfl _ _⟩
  · have hsynced : Idle (synced s body) := h
    refine ⟨_, ?_, raise_leavesEmpty (loc := { taken := n }) hsynced rfl rfl rfl .len c.toNat⟩
    rw [exec_rdbatch_found h hfound hbytes, if_pos hlong]
  · have hframe : FrameAhead s n c records more := ⟨hfound, hbody ▸ hbytes, hle, hlen⟩
    refine ⟨rdbatch_unchecked h hframe, fun hcheck tr rest hmore => ?_⟩
    subst hmore
    exact ⟨rdbatch_matches h hframe hcheck,
      fun hwrong hreport => rdbatch_reports h hframe hreport hwrong,
      fun hwrong hdiscard => rdbatch_discards h hframe hdiscard hwrong⟩

/-! ## A frame written and read back -/

theorem foundAt_leadingMarker {u : State} {more : List Byte}
    (hrx : u.rx = List.replicate (markerLen u) 0xFF ++ more)
    (hlimit : u.syncLim = 0 ∨ markerLen u ≤ u.syncLim.toNat) : FoundAt u (markerLen u) := by
  refine ⟨⟨le_rfl, by simp [hrx], fun j _ hj => ?_⟩, fun m hm hmarker => ?_, hlimit⟩
  · rw [hrx, List.getElem?_append_left (by simpa using hj), List.getElem?_replicate, if_pos hj]
  · exact absurd hmarker.1 (Nat.not_le.2 hm)

theorem trailer_congr {s u : State} (hstart : u.ctrl.start2 = s.ctrl.start2)
    (hzero : u.ctrl.zeroEnd = s.ctrl.zeroEnd) (hseed : u.ctrl.ckSeed = s.ctrl.ckSeed) (c : Nat)
    (records : List Byte) : trailer u c records = trailer s c records := by
  simp only [trailer, checksumOf, markerLen, hstart, hzero, hseed]

section
variable {s t u : State} {c : Byte} {rest : List Byte}

/-- A frame of the sensor batch first in `RX` is one that `RDBATCH` can read. -/
theorem frameAhead_of_frameOf (hle : c.toNat ≤ 38) (hrx : u.rx = frameOf s c.toNat ++ rest)
    (hmarker : markerLen u = markerLen s) (hlimit : u.syncLim = 0 ∨ markerLen u ≤ u.syncLim.toNat) :
    FrameAhead u (markerLen u) c (sensorBytes s c.toNat)
      (trailer s c.toNat (sensorBytes s c.toNat) :: rest) := by
  have hbytes : u.rx = List.replicate (markerLen u) 0xFF ++
      c :: (sensorBytes s c.toNat ++ trailer s c.toNat (sensorBytes s c.toNat) :: rest) := by
    rw [hrx, frameOf, BitVec.ofNat_toNat, BitVec.setWidth_eq, hmarker]
    simp only [List.append_assoc, List.cons_append, List.nil_append]
  exact ⟨foundAt_leadingMarker hbytes hlimit, by rw [hbytes, List.drop_left' (by simp)], hle,
    length_sensorBytes s c.toNat⟩

/-- The batch read has the bytes of the batch written. -/
theorem readByte_of_loads_sensorBytes (hcount : s.readByte 0x400 = c)
    (hloads : LoadsBatch u t c (sensorBytes s c.toNat)) {k : Nat} (hk : k ≤ 3 * c.toNat) : t.readByte (0x300 + k) = s.readByte (0x400 + k) := by
  obtain ⟨hcountRead, hrecords, -⟩ := hloads
  cases k with
  | zero => exact hcountRead.trans hcount.symm
  | succ j =>
    have hj : j < (sensorBytes s c.toNat).length := by simpa using hk
    rw [show 0x300 + (j + 1) = 0x301 + j by omega, show 0x400 + (j + 1) = 0x401 + j by omega,
      hrecords j hj, List.getD_eq_getElem _ _ hj]
    simp [sensorBytes]

end

/-- Settles O46: the frame written is found and read, and its trailer is the one expected. -/
theorem framesReadBack : Obligations.FramesReadBack := by
  intro s s' u frame rest hs hu hcount hwrite htx hrx hstart hzero hseed hlimit
  have hmarker : markerLen u = markerLen s := by rw [markerLen, hstart, markerLen]
  have hframeOf : frame = frameOf s (s.readByte 0x400).toNat := by
    rw [(writeBatch s hs).2 hcount, Host.Outcome.next.injEq] at hwrite
    subst hwrite
    exact (List.append_cancel_left htx).symm
  subst hframeOf
  have hframe := frameAhead_of_frameOf hcount hrx hmarker (hmarker ▸ hlimit)
  obtain ⟨t, more, r0, r1, hexec, hloads, hstores, hmore⟩ : ∃ t more r0 r1, exec .rdbatch u = .next t ∧
      LoadsBatch u t (s.readByte 0x400) (sensorBytes s (s.readByte 0x400).toNat) ∧
      StoresOnly (synced (ended u r0 r1) more) t ∧ (u.ctrl.rxChk ≠ .none → more = rest) := by
    by_cases hcheck : u.ctrl.rxChk = .none
    · obtain ⟨t, hexec, hloads, hstores⟩ := rdbatch_unchecked hu hframe hcheck
      exact ⟨t, _, _, _, hexec, hloads, hstores, fun h => absurd hcheck h⟩
    · obtain ⟨t, hexec, hloads, hstores⟩ :=
        rdbatch_matches hu hframe hcheck (trailer_congr hstart hzero hseed _ _).symm
      exact ⟨t, _, _, _, hexec, hloads, hstores, fun _ => rfl⟩
  exact ⟨t, hexec, hstores.idle hu, congrArg State.done hstores,
    (congrArg State.errKind hstores).trans rfl, fun k hk => readByte_of_loads_sensorBytes rfl hloads hk,
    fun hcheck => (congrArg State.rx hstores).trans (hmore hcheck)⟩

end Sys2Proof.Proofs
end

section
/-! SUPPORT. The life of an operation: what one step of the sequencer leaves to do, that `DONE` is set at the
end of an operation and not before (60_exceptions.md R147), and which operations can wait for the host
(20_memory.md R57). -/

namespace Sys2Proof.Proofs

open Sys2Proof.Machine Sys2Proof.Safety

/-! ## What a step leaves to do -/

/-- The steps that a step may put before the rest, if it lets the operation go on. -/
def MayPutFirst (m : Micro) (more : List Micro) : Prop :=
  match m with
  | .searchByte => more = [] ∨ more = [.searchByte]
  | .takeCount => ∃ check c, more = readRecords check c
  | .keepReplies _ _ | .append _ _ | .appendReply _ => ∀ x ∈ more, x.isPoke = true
  | .keepBatch _ | .raise _ _ => False
  | _ => more = []

/-- An operation that goes on leaves `DONE` as it is, with steps that `m` may put first; one that ends
sets `DONE`. -/
def Proceeds (m : Micro) (s : State) : Progress → Prop
  | .go t _ more => t.done = s.done ∧ MayPutFirst m more
  | .waits => True
  | .stops t => t.done = true

section
variable {m : Micro} {s : State}

theorem takeByte_proceeds {k : Byte → State → Progress} (hk : ∀ b u, Proceeds m u (k b u)) :
    Proceeds m s (s.takeByte k) := by
  unfold State.takeByte
  split
  · trivial
  · exact hk _ _

theorem searchStep_proceeds (loc : Locals) (b : Byte) :
    Proceeds .searchByte s (searchStep loc b s) := by
  unfold searchStep
  dsimp only
  split
  · exact ⟨rfl, .inl rfl⟩
  · split
    · exact rfl
    · exact ⟨rfl, .inr rfl⟩

theorem countStep_proceeds (loc : Locals) (c : Byte) : Proceeds .takeCount s (countStep loc c s) := by
  unfold countStep
  split
  · exact rfl
  · exact ⟨rfl, _, _, rfl⟩

theorem trailerStep_proceeds (c : Byte) (loc : Locals) (b : Byte) :
    Proceeds (.takeTrailer c) s (trailerStep c loc b s) := by
  unfold trailerStep
  split
  · exact ⟨rfl, rfl⟩
  · split
    · exact rfl
    · exact ⟨rfl, rfl⟩

theorem appendStep_proceeds (hm : ∀ more, (∀ x ∈ more, x.isPoke = true) → MayPutFirst m more)
    (id : Byte) (v : Half) (loc : Locals) : Proceeds m s (appendStep id v loc s) := by
  unfold appendStep
  dsimp only
  split
  · exact ⟨rfl, hm _ (by simp)⟩
  · exact ⟨rfl, hm _ (by simp [Micro.isPoke])⟩

theorem exchangeStep_proceeds (out : Byte) (dest : Dest) (loc : Locals) :
    Proceeds (.exchange out dest) s (exchangeStep out dest loc s) := by
  cases dest with
  | discard | rxBuf => exact ⟨rfl, rfl⟩

theorem updateRecord_done (s : State) (i : Nat) (c d : Byte) (v : Half) (r : List Byte) :
    (s.updateRecord i c d v r).done = s.done :=
  updateRecord_induct (fun t => t.done = s.done) (fun _ _ _ _ ht => ht) s rfl i c d v r

end

/-- What every step leaves to do. -/
theorem stepMicro_proceeds (m : Micro) (loc : Locals) (s : State) :
    Proceeds m s (stepMicro m loc s) := by
  cases m with
  | exchange out dest => exact exchangeStep_proceeds out dest loc
  | keepReplies i n =>
    refine ⟨rfl, fun x hx => ?_⟩
    obtain ⟨_, -, rfl⟩ := List.mem_map.1 hx
    rfl
  | updateRecord i c d v => exact ⟨updateRecord_done s i c d v loc.replies, rfl⟩
  | append id v => exact appendStep_proceeds (m := .append id v) (fun _ h => h) id v loc
  | appendReply id => exact appendStep_proceeds (m := .appendReply id) (fun _ h => h) id _ _
  | searchByte => exact takeByte_proceeds fun b _ => searchStep_proceeds loc b
  | takeCount => exact takeByte_proceeds fun c _ => countStep_proceeds loc c
  | takeInto off =>
    exact takeByte_proceeds (k := fun b t => .go (t.writeByte off b) loc []) fun _ _ => ⟨rfl, rfl⟩
  | takeTrailer c => exact takeByte_proceeds fun b _ => trailerStep_proceeds c loc b
  | raise | keepBatch => exact rfl
  | setMux | settle | assertCs | raiseCs | releaseCs | sampleAdc | poke | countUnknown | startSearch
  | transmit | result | resultReply8 | resultReply16 | resultTxn | resultSwap | resultSearch | setDac
  | flag => exact ⟨rfl, rfl⟩

/-! ## A property of the sequencer run -/

/-- What every step of the sequencer keeps, its run keeps. -/
theorem drain_induct {P : State → Prop} (hP : ∀ t, P t → P (tick t)) {s : State} (h : P s) :
    P (drain s) := by
  obtain ⟨n, hn⟩ := drain_is_iterate s
  rw [hn]
  exact Function.Iterate.rec P h hP n

/-- A step of the sequencer, said once: the sequencer is idle or waits, or the operation ends, or its next
step is done, with `more` to do before the rest. -/
theorem tick_cases (s : State) :
    tick s = s ∨ (Idle (tick s) ∧ (tick s).done = true) ∨
    ∃ r m rest t loc more, s.seq = .running r ∧ r.todo = m :: rest ∧
      tick s = t.runningAt r.op (more ++ rest) loc ∧ StepFrame (storesTo m) s t ∧ t.done = s.done ∧
      MayPutFirst m more := by
  unfold tick
  split
  · exact .inl rfl
  · rename_i r hr
    split
    · exact .inr (.inl ⟨rfl, rfl⟩)
    · rename_i m rest hm
      have hframe := stepMicro_frame m r.loc s
      have hproceeds := stepMicro_proceeds m r.loc s
      split
      · rename_i t loc more ht
        rw [ht] at hframe hproceeds
        obtain ⟨hdone, hfirst⟩ := hproceeds
        exact .inr (.inr ⟨r, m, rest, t, loc, more, hr, hm, rfl, hframe, hdone, hfirst⟩)
      · exact .inl rfl
      · rename_i t ht
        rw [ht] at hproceeds
        exact .inr (.inl ⟨stepMicro_stops _ _ _ _ ht, hproceeds⟩)

end Sys2Proof.Proofs
end

section
/-! SUPPORT. The control operations (48_control.md R140, R141), and the count byte of the command batch while
`RDBATCH` runs (47_framing.md R135): cleared at its acceptance, stored again by its last step only. -/

namespace Sys2Proof.Proofs

open Sys2Proof.Machine Sys2Proof.Safety

/-! ## `NOP` and `SRST` -/

/-- Settles O15: the operation ends at its acceptance, with no step to do. -/
theorem nopSetsDoneOnly : Obligations.NopSetsDoneOnly := by
  intro s h
  rw [exec_idle .nop s h nofun, show stepsOf .nop s = [] from rfl, drain_nil, finish_idle s h]

/-- Settles O17: an open bracket is closed, and a closed one already has its pin released. -/
theorem softReset : Obligations.SoftReset := by
  intro s hreleased
  refine congrArg Host.Outcome.next ?_
  cases hb : s.bracket with
  | closed =>
    have hopen : s.isOpen = false := by rw [isOpen_eq, hb]; rfl
    rw [State.softReset, hopen, if_neg Bool.false_ne_true, if_pos rfl, ← hb, ← hreleased hb]
  | opened i =>
    have hopen : s.isOpen = true := by rw [isOpen_eq, hb]; rfl
    rw [State.softReset, hopen, if_pos rfl, if_neg nofun]
    rfl

theorem softReset_readByte (s : State) (off : Nat) : s.softReset.readByte off = s.readByte off := by
  unfold State.softReset
  dsimp only
  split <;> rfl

theorem softReset_irq (s : State) : s.softReset.irq = s.ctrl.irqEn := by
  have hctrl : s.softReset.ctrl = s.ctrl := by
    unfold State.softReset
    dsimp only
    split <;> rfl
  have hdone : s.softReset.done = true := rfl
  rw [State.irq, hctrl, hdone, Bool.and_true]

/-! ## The steps of `RDBATCH` -/

theorem readRecords_readStep (check : RxCheck) (c : Byte) :
    (readRecords check c).all readStep = true := by
  have hrecords (n : Nat) :
      ((List.range n).map fun j => Micro.takeInto (cmdBatchBase + 1 + j)).all readStep = true := by
    rw [List.all_map, List.all_eq_true]
    intro j _
    simp only [Function.comp_apply, readStep, decide_eq_true_eq, cmdBatchBase]
    omega
  have htrailer : (if check = .none then [] else [Micro.takeTrailer c]).all readStep = true := by
    split <;> rfl
  rw [readRecords, List.all_append, List.all_append, hrecords, htrailer]
  rfl

/-- A step of `RDBATCH` puts steps of `RDBATCH` first. -/
theorem readStep_of_mayPutFirst {m : Micro} {more : List Micro} (hm : readStep m = true)
    (h : MayPutFirst m more) : more.all readStep = true := by
  cases m with
  | searchByte => rcases h with rfl | rfl <;> rfl
  | takeCount =>
    obtain ⟨check, c, rfl⟩ := h
    exact readRecords_readStep check c
  | keepBatch => exact h.elim
  | startSearch | takeInto | takeTrailer =>
    rw [show more = [] from h]
    rfl
  | _ => exact absurd hm Bool.false_ne_true

/-- A step of `RDBATCH` that lets it go on does not store the count byte. -/
theorem count_not_stored {m : Micro} {more : List Micro} (hm : readStep m = true)
    (h : MayPutFirst m more) : ¬ storesTo m 0x300 := by
  cases m with
  | takeInto off => exact fun hoff => of_decide_eq_true hm hoff.symm
  | keepBatch => exact h.elim
  | startSearch | searchByte | takeCount | takeTrailer => exact id
  | _ => exact absurd hm Bool.false_ne_true

/-! ## What keeps the command batch cleared -/

section
variable {s t : State}

theorem readBatchCleared_of_idle (h : Idle s) : ReadBatchCleared s := by
  intro r hr
  rw [show s.seq = .idle from h] at hr
  cases hr

/-- The property looks at the sequencer and the buffers alone. -/
theorem readBatchCleared_congr (h : ReadBatchCleared s) (hseq : t.seq = s.seq) (hmem : t.mem = s.mem)
    (hparams : t.params = s.params) : ReadBatchCleared t := by
  intro r hr hop
  rw [readByte_congr s t hmem hparams]
  exact h r (hseq ▸ hr) hop

end

theorem tick_readBatchCleared (s : State) (h : ReadBatchCleared s) : ReadBatchCleared (tick s) := by
  rcases tick_cases s with hrests | ⟨hends, -⟩ |
    ⟨r, m, rest, t, loc, more, hr, htodo, htick, hframe, -, hfirst⟩
  · rwa [hrests]
  · exact readBatchCleared_of_idle hends
  · rw [htick]
    rintro r' hr' hop
    cases hr'
    obtain ⟨hall, hcount⟩ := h r hr hop
    rw [htodo, List.all_cons, Bool.and_eq_true] at hall
    obtain ⟨hm, hrest⟩ := hall
    refine ⟨?_, (hframe.bytes _ (count_not_stored hm hfirst)).trans hcount⟩
    rw [List.all_append, readStep_of_mayPutFirst hm hfirst, hrest]
    rfl

/-! ## The moves of the other agents -/

/-- `RDBATCH` is accepted with its count byte cleared, and another operation is not `RDBATCH`. -/
theorem accept_readBatchCleared (i : Instr) (s : State) :
    ReadBatchCleared (accept i (stepsOf i s) s) := by
  by_cases hi : i = .rdbatch
  · subst hi
    intro r hr _
    cases hr
    exact ⟨rfl, readByte_writeByte_same s 0x300 0 (byteExists_cmdBatch (by decide) (by decide))⟩
  · rcases accept_cases i s with hacc | ⟨off, rest, -, hacc, -⟩
    all_goals
      rw [hacc]
      rintro r hr hop
      cases hr
      exact absurd hop hi

section
variable {s : State}

theorem issue_readBatchCleared (h : ReadBatchCleared s) (i : Instr) : ReadBatchCleared (issue i s) := by
  rw [issue_eq]
  split
  · exact readBatchCleared_of_idle rfl
  split
  · exact readBatchCleared_congr h rfl rfl rfl
  · exact accept_readBatchCleared i s

theorem issueIllegal_readBatchCleared (h : ReadBatchCleared s) (op : Byte) :
    ReadBatchCleared (issueIllegal op s) := by
  unfold issueIllegal
  split
  · exact readBatchCleared_congr h rfl rfl rfl
  · exact readBatchCleared_of_idle (raiseError_seq _ _ _ s)

theorem onCmdWrite_readBatchCleared (h : ReadBatchCleared s) (w : Word) :
    ReadBatchCleared (onCmdWrite w s) := by
  unfold onCmdWrite
  split
  · exact issue_readBatchCleared h _
  · exact issueIllegal_readBatchCleared h _

theorem clearErrors_readBatchCleared (h : ReadBatchCleared s) (w : Word) :
    ReadBatchCleared (s.clearErrors w) := by
  unfold State.clearErrors
  dsimp only
  split <;> exact readBatchCleared_congr h rfl rfl rfl

theorem writeWord_seq (off : Nat) (v : Word) : (s.writeWord off v).seq = s.seq :=
  (congrArg State.seq (writeWord_eq s off v)).trans rfl

theorem writeRegistry_seq (off : Nat) (v : Word) : (s.writeRegistry off v).seq = s.seq := by
  unfold State.writeRegistry
  split
  · rfl
  · exact writeWord_seq off v

theorem writeIdle_seq (off : Nat) (v : Word) : (s.writeIdle off v).seq = s.seq := by
  unfold State.writeIdle
  split
  · rfl
  split
  · rfl
  split
  · rfl
  split
  · rfl
  split
  · exact writeRegistry_seq off v
  · exact writeWord_seq off v

theorem portWrite_readBatchCleared (h : ReadBatchCleared s) (off : BitVec 12) (width : Nat) (v : Word) :
    ReadBatchCleared (s.portWrite off width v) := by
  unfold State.portWrite
  split
  · split
    · exact onCmdWrite_readBatchCleared h v
    split
    · split
      · exact readBatchCleared_congr h rfl rfl rfl
      · exact h
    split
    · exact clearErrors_readBatchCleared h v
    split
    · exact readBatchCleared_congr h rfl rfl rfl
    · rename_i hbusy
      have hidle : Idle s := idle_of_not_busy s (Bool.eq_false_iff.2 hbusy)
      exact readBatchCleared_of_idle ((writeIdle_seq off.toNat v).trans hidle)
  · exact readBatchCleared_congr h rfl rfl rfl

theorem portRead_readBatchCleared (h : ReadBatchCleared s) (off : BitVec 12) (width : Nat) :
    ReadBatchCleared (s.portRead off width) := by
  unfold State.portRead
  split
  · split <;> exact readBatchCleared_congr h rfl rfl rfl
  · exact readBatchCleared_congr h rfl rfl rfl

theorem timeOut_readBatchCleared (h : ReadBatchCleared s) : ReadBatchCleared s.timeOut := by
  unfold State.timeOut
  split
  · exact h
  split
  · exact readBatchCleared_of_idle (raiseError_seq _ _ _ s)
  · exact h

theorem drain_readBatchCleared (h : ReadBatchCleared s) : ReadBatchCleared (drain s) :=
  drain_induct tick_readBatchCleared h

theorem perform_readBatchCleared (h : ReadBatchCleared s) (m : Move) :
    ReadBatchCleared (perform m s) := by
  cases m with
  | issue w => exact onCmdWrite_readBatchCleared h w
  | write off width v => exact portWrite_readBatchCleared h off width v
  | read off width => exact portRead_readBatchCleared h off width
  | wait => exact drain_readBatchCleared h
  | tick => exact tick_readBatchCleared s h
  | timeout => exact timeOut_readBatchCleared h
  | powerOn => exact readBatchCleared_of_idle rfl
  | hostSend | hostTake | elapse => exact readBatchCleared_congr h rfl rfl rfl

theorem exec_readBatchCleared (h : ReadBatchCleared s) {i : Instr} {t : State}
    (ht : exec i s = .next t) : ReadBatchCleared t := by
  rw [exec_eq] at ht
  injection ht with ht
  subst ht
  split
  · exact readBatchCleared_of_idle rfl
  split
  · exact readBatchCleared_congr h rfl rfl rfl
  · exact drain_readBatchCleared (accept_readBatchCleared i s)

end

theorem step_readBatchCleared {s t : State} (h : ReadBatchCleared s) (ht : step s = .next t) :
    ReadBatchCleared t := by
  have hdrop : ReadBatchCleared s.dropMove := readBatchCleared_congr h rfl rfl rfl
  unfold step at ht
  split at ht
  · injection ht with ht
    exact ht ▸ tick_readBatchCleared s h
  · split at ht
    · exact exec_readBatchCleared hdrop ht
    · injection ht with ht
      exact ht ▸ issueIllegal_readBatchCleared hdrop _
  · injection ht with ht
    exact ht ▸ perform_readBatchCleared hdrop _

/-- Settles O16: the count stays cleared over every step, and `SRST` leaves the buffers as they are. -/
theorem abandonedReadBatch : Obligations.AbandonedReadBatch := by
  refine ⟨readBatchCleared_of_idle rfl, fun s t => step_readBatchCleared, fun s r h hr hop => ?_⟩
  obtain ⟨-, hcount⟩ := h r hr hop
  exact ⟨s.softReset, rfl, rfl, rfl, (softReset_readByte s 0x300).trans hcount⟩

end Sys2Proof.Proofs
end

section
/-! SUPPORT. That every operation ends (60_exceptions.md R147; 48_control.md R142): an operation other than
`SYNC` and `RDBATCH` has no step that takes a host byte, so it cannot wait (20_memory.md R57). -/

namespace Sys2Proof.Proofs

open Sys2Proof.Machine Sys2Proof.Safety

/-! ## Operations that take no host byte -/

/-- No step of the list takes a host byte. -/
def TakesNone (l : List Micro) : Prop := ∀ m ∈ l, m.takesByte = false

section
variable {α : Type} {l k : List Micro}

@[simp] theorem takesNone_nil : TakesNone [] := nofun

@[simp] theorem takesNone_cons {m : Micro} : TakesNone (m :: l) ↔ m.takesByte = false ∧ TakesNone l :=
  List.forall_mem_cons

@[simp] theorem takesNone_append : TakesNone (l ++ k) ↔ TakesNone l ∧ TakesNone k :=
  List.forall_mem_append

@[simp] theorem takesNone_map {f : α → Micro} {as : List α} :
    TakesNone (as.map f) ↔ ∀ a ∈ as, (f a).takesByte = false := List.forall_mem_map

@[simp] theorem takesNone_flatMap {f : α → List Micro} {as : List α} :
    TakesNone (as.flatMap f) ↔ ∀ a ∈ as, TakesNone (f a) := List.forall_mem_flatMap

@[simp] theorem takesNone_replicate {n : Nat} {m : Micro} :
    TakesNone (List.replicate n m) ↔ n = 0 ∨ m.takesByte = false := List.forall_mem_replicate

end

/-- A step that takes no host byte puts no step first that does. -/
theorem takesNone_of_mayPutFirst {m : Micro} {more : List Micro} (hm : m.takesByte = false)
    (h : MayPutFirst m more) : TakesNone more := by
  have hpokes (hmore : ∀ x ∈ more, x.isPoke = true) : TakesNone more := by
    intro x hx
    cases x with
    | poke => rfl
    | _ => exact absurd (hmore _ hx) Bool.false_ne_true
  cases m with
  | keepReplies | append | appendReply => exact hpokes h
  | keepBatch | raise => exact h.elim
  | searchByte | takeCount | takeInto | takeTrailer => cases hm
  | _ =>
    rw [show more = [] from h]
    exact takesNone_nil

@[simp] theorem takesNone_rangeFlag (x : Half) (full : Nat) : TakesNone (rangeFlag x full) := by
  unfold rangeFlag
  split <;> simp [Micro.takesByte]

@[simp] theorem takesNone_exchangeAll (out : Nat → Byte) (i n : Nat) :
    TakesNone (exchangeAll out i n) := takesNone_map.2 fun _ _ => rfl

@[simp] theorem takesNone_checkCount (n : Nat) : TakesNone (checkCount n) := by
  unfold checkCount
  split <;> simp [Micro.takesByte]

@[simp] theorem takesNone_beginSteps (i : Nat) : TakesNone (beginSteps i) := by
  simp [beginSteps, Micro.takesByte]

@[simp] theorem takesNone_endSteps : TakesNone endSteps := by simp [endSteps, Micro.takesByte]

theorem takesNone_bracketed {a : Byte} {check : List Micro} {tier : Nat → List Micro}
    {outcome : Nat → Micro} {s : State} (hcheck : TakesNone check) (htier : ∀ i, TakesNone (tier i))
    (houtcome : ∀ n, (outcome n).takesByte = false) :
    TakesNone (bracketed a check tier outcome s) := by
  unfold bracketed bracketAll
  split
  · simp [Micro.takesByte]
  split
  · exact hcheck
  split
  · simp [Micro.takesByte]
  · simp [htier, houtcome]

theorem replyOr_takesByte {a : Byte} {m : Micro} (h : m.takesByte = false) (n : Nat) :
    (replyOr a m n).takesByte = false := by
  unfold replyOr
  split
  · rfl
  · exact h

theorem takesNone_selectSteps {channel : Nat} {s : State} {l : List Micro} (h : TakesNone l) :
    TakesNone (selectSteps channel s l) := by
  unfold selectSteps
  (repeat' split) <;> simp [Micro.takesByte, h]

theorem takesNone_transactionSteps (c d : Byte) (v : Half) (i : Nat) :
    TakesNone (transactionSteps c d v i) := by
  simp [transactionSteps, Micro.takesByte]

theorem takesNone_swapRecord (c d : Byte) (s : State) (k : Nat) : TakesNone (swapRecord c d s k) := by
  unfold swapRecord
  dsimp only
  split
  · split <;> simp [Micro.takesByte]
  · simp [Micro.takesByte]

theorem takesNone_stepsSwap (s : State) : TakesNone (stepsSwap s) := by
  unfold stepsSwap
  dsimp only
  (repeat' split) <;>
    simp [takesNone_swapRecord, Micro.takesByte]

theorem takesNone_stepsTxn (a : Byte) (v : Half) (s : State) : TakesNone (stepsTxn a v s) := by
  unfold stepsTxn
  split
  · simp [Micro.takesByte]
  split
  · simp [Micro.takesByte]
  · refine takesNone_append.2 ⟨takesNone_flatMap.2 fun i _ => takesNone_transactionSteps _ _ v i, ?_⟩
    split <;> simp [reached, Micro.takesByte]

theorem takesNone_stepsXfern (n : Nat) (s : State) : TakesNone (stepsXfern n s) := by
  unfold stepsXfern
  split
  · simp [Micro.takesByte]
  · split <;> simp [Micro.takesByte]

theorem takesNone_stepsWrbatch (s : State) : TakesNone (stepsWrbatch s) := by
  unfold stepsWrbatch
  dsimp only
  split
  · simp [Micro.takesByte]
  · simp [Micro.takesByte]

/-- Only `SYNC` and `RDBATCH` take host bytes (47_framing.md R134, R135). -/
theorem stepsOf_takesNone {i : Instr} (hsync : i ≠ .sync) (hrdbatch : i ≠ .rdbatch) (s : State) :
    TakesNone (stepsOf i s) := by
  cases i with
  | sync => exact absurd rfl hsync
  | rdbatch => exact absurd rfl hrdbatch
  | nop | srst => exact takesNone_nil
  | swr8 | swr16 =>
    exact takesNone_bracketed takesNone_nil (fun _ => by simp [Micro.takesByte]) fun _ => rfl
  | srd8 | srw8 | srd16 | srw16 =>
    exact takesNone_bracketed takesNone_nil (fun _ => takesNone_exchangeAll _ _ _)
      (replyOr_takesByte rfl)
  | swrn a n =>
    exact takesNone_bracketed (takesNone_checkCount n) (fun _ => takesNone_map.2 fun _ _ => rfl)
      fun _ => rfl
  | srdn a n | srwn a n =>
    exact takesNone_bracketed (takesNone_checkCount n) (fun _ => takesNone_exchangeAll _ _ _)
      fun _ => rfl
  | txn a v => exact takesNone_stepsTxn a v s
  | swap => exact takesNone_stepsSwap s
  | xfern n => exact takesNone_stepsXfern n s
  | wrbatch => exact takesNone_stepsWrbatch s
  | muxsel channel => exact takesNone_selectSteps takesNone_nil
  | adcsample channel => exact takesNone_selectSteps (by simp [Micro.takesByte])
  | u16fb | bfu16 | lkmus | lkslv =>
    simp [stepsOf, stepsU16fb, stepsBfu16, stepsLkmus, stepsLkslv, Micro.takesByte]
  | u10to16 | u16to10 | u10to12 | u12to10 | u12to16 | u16to12 | clamp12 | adc2v | dacwr =>
    exact takesNone_append.2 ⟨takesNone_rangeFlag _ _, by simp [Micro.takesByte]⟩
  | beginBracket index =>
    simp only [stepsOf, stepsBegin]
    (repeat' split) <;> simp [Micro.takesByte]
  | endBracket =>
    simp only [stepsOf, stepsEnd]
    split <;> simp [Micro.takesByte]
  | xfer8 | xfer16 | mirror | cksumtx | clrbatch | putrec =>
    simp only [stepsOf, stepsXfer8, stepsXfer16, stepsMirror, mirrorSteps, stepsCksumtx, stepsClrbatch,
      stepsPutrec]
    (repeat' split) <;> simp [Micro.takesByte]

/-! ## The end of an operation -/

/-- The operation can wait for the host only where it is `SYNC` or `RDBATCH`. -/
def MayWait (i : Instr) (todo : List Micro) : Prop := (i = .sync ∨ i = .rdbatch) ∨ TakesNone todo

/-- Operation `i`, accepted in state `s`, has come to state `t`: it has ended with `DONE` set, or runs with
`DONE` as it was (R147). -/
structure Underway (i : Instr) (s t : State) : Prop where
  ctrl : t.ctrl = s.ctrl
  ended : Idle t → t.done = true
  running : ∀ r, t.seq = .running r → t.done = s.done ∧ MayWait i r.todo

section
variable {i : Instr} {s t : State}

theorem runningAt_underway (i : Instr) (s : State) :
    Underway i s (s.runningAt i (stepsOf i s) {}) where
  ctrl := rfl
  ended := nofun
  running := by
    rintro r hr
    cases hr
    refine ⟨rfl, ?_⟩
    by_cases hi : i = .sync ∨ i = .rdbatch
    · exact .inl hi
    · exact .inr (stepsOf_takesNone (fun h => hi (.inl h)) (fun h => hi (.inr h)) s)

theorem mayWait_of_mayPutFirst {m : Micro} {rest more : List Micro} (h : MayWait i (m :: rest))
    (hfirst : MayPutFirst m more) : MayWait i (more ++ rest) := by
  refine h.imp_right fun hnone => ?_
  obtain ⟨hm, hrest⟩ := takesNone_cons.1 hnone
  exact takesNone_append.2 ⟨takesNone_of_mayPutFirst hm hfirst, hrest⟩

theorem tick_underway (h : Underway i s t) : Underway i s (tick t) := by
  have hctrl : (tick t).ctrl = s.ctrl := (tick_frame t).ctrl.trans h.ctrl
  rcases tick_cases t with hrests | ⟨hidle, hdone⟩ |
    ⟨r, m, rest, u, loc, more, hr, htodo, htick, -, hudone, hfirst⟩
  · rwa [hrests]
  · refine ⟨hctrl, fun _ => hdone, fun r hr => ?_⟩
    rw [show (tick t).seq = .idle from hidle] at hr
    cases hr
  · obtain ⟨htdone, hwait⟩ := h.running r hr
    rw [htodo] at hwait
    refine ⟨hctrl, ?_, ?_⟩
    · rw [htick]
      exact nofun
    · rw [htick]
      rintro r' hr'
      cases hr'
      exact ⟨hudone.trans htdone, mayWait_of_mayPutFirst hwait hfirst⟩

theorem waiting_cases (h : t.waiting = true) :
    ∃ r m rest, t.seq = .running r ∧ r.todo = m :: rest ∧ m.takesByte = true ∧ t.rx = [] := by
  obtain ⟨r, hr⟩ := running_of_waiting h
  cases htodo : r.todo with
  | nil => simp [State.waiting, hr, htodo] at h
  | cons m rest =>
    simp only [State.waiting, hr, htodo, Bool.and_eq_true, List.isEmpty_iff] at h
    exact ⟨r, m, rest, hr, htodo, h⟩

/-- An operation that has come to rest has ended, or is one that waits for a host byte (R147, R57). -/
theorem underway_quiescent (h : Underway i s t) (hq : t.quiescent = true) :
    (Idle t ∧ t.done = true ∧ t.irq = s.ctrl.irqEn) ∨
      ((i = .sync ∨ i = .rdbatch) ∧ t.busy = true ∧ t.waiting = true ∧ t.rx = [] ∧
        t.done = s.done) := by
  rw [State.quiescent, Bool.or_eq_true, Bool.not_eq_true'] at hq
  rcases hq with hbusy | hwait
  · have hidle := idle_of_not_busy t hbusy
    have hdone := h.ended hidle
    exact .inl ⟨hidle, hdone, by rw [State.irq, hdone, h.ctrl, Bool.and_true]⟩
  · obtain ⟨r, m, rest, hr, htodo, hm, hrx⟩ := waiting_cases hwait
    obtain ⟨hdone, hmay | hnone⟩ := h.running r hr
    · exact .inr ⟨hmay, by rw [State.busy, hr], hwait, hrx, hdone⟩
    · rw [htodo, takesNone_cons, hm] at hnone
      obtain ⟨hfalse, -⟩ := hnone
      cases hfalse

end

/-- Settles O9: `SRST` ends at once, and every other operation is run until it rests. -/
theorem operationsEnd : Obligations.OperationsEnd := by
  intro i s h
  by_cases hi : i = .srst
  · subst hi
    exact ⟨s.softReset, rfl, .inl ⟨rfl, rfl, softReset_irq s⟩⟩
  · refine ⟨_, exec_idle i s h hi, underway_quiescent ?_ (quiescent_drain _)⟩
    exact drain_induct (P := Underway i s) (fun _ => tick_underway) (runningAt_underway i s)

end Sys2Proof.Proofs
end

section
/-! SUPPORT. A safe state's invariant over the named updates (60_exceptions.md R145; 44_spi_transport.md R98
to R102; 70_reset_and_hazards.md R165). An update that leaves the SPI side alone keeps every clause and
every phase of a bracket; each of the seven that do not has a rule of its own. -/

namespace Sys2Proof.Proofs

open Sys2Proof.Machine Sys2Proof.Safety

/-! ## The invariant at an instant inside an operation -/

/-- The clauses of `Inv` that do not look at the sequencer. -/
structure Steady (s : State) : Prop where
  params : s.params.wf = true
  memory : Memory.wf s.params s.mem = true
  peers : s.peers.length = s.params.nSlaves
  errors : ErrorsOk s
  registry : RegistryOk s
  bus : busOpen s.bus = some s.isOpen
  byteEnd : ∀ t, s.lastByteEnd = some t → t ≤ s.now
  handled : HandledBy s (s.now + s.params.tSlaveIsr)

/-- A state of the phase `p` of a running operation. -/
structure SafeIn (p : Phase) (s : State) : Prop where
  steady : Steady s
  holds : p.holds s

/-- A state in which the sequencer may be idle. -/
def AtRest (s : State) : Prop := Phase.free.holds s ∨ Phase.low.holds s

/-- From `s` to `t` the SPI side is as it was, but for time that passes, and memory and the error registers
stay sound. An update that leaves a field alone needs no proof for it. -/
structure Quiet (s t : State) : Prop where
  params : t.params = s.params := by rfl
  memory : Memory.wf s.params s.mem = true → Memory.wf t.params t.mem = true := by exact id
  errors : ErrorsOk s → ErrorsOk t := by exact id
  registry : s.params.wf = true → RegistryOk s → RegistryOk t := by exact fun _ => id
  muxL : t.muxL = s.muxL := by rfl
  muxU : t.muxU = s.muxU := by rfl
  cs : t.cs = s.cs := by rfl
  bracket : t.bracket = s.bracket := by rfl
  lastByteEnd : t.lastByteEnd = s.lastByteEnd := by rfl
  settledAt : t.settledAt = s.settledAt := by rfl
  peers : t.peers = s.peers := by rfl
  bus : t.bus = s.bus := by rfl
  now : s.now ≤ t.now := by exact Nat.le_refl _

section
variable {s t u : State} {p : Phase}

theorem steady_of_inv (h : Inv s) : Steady s := { h with }

theorem inv_of_steady (h : Steady s) (hpins : PinsOk s) : Inv s := { h with pins := hpins }

theorem inv_of_atRest (h : Steady s) (hidle : Idle s) (hrest : AtRest s) : Inv s :=
  inv_of_steady h (by rwa [PinsOk, show s.seq = .idle from hidle])

theorem atRest_of_inv (h : Inv s) (hidle : Idle s) : AtRest s := by
  have hpins := h.pins
  rwa [PinsOk, show s.seq = .idle from hidle] at hpins

theorem Quiet.trans (h : Quiet s t) (h' : Quiet t u) : Quiet s u where
  params := h'.params.trans h.params
  memory := h'.memory ∘ h.memory
  errors := h'.errors ∘ h.errors
  registry hwf hs := h'.registry (h.params ▸ hwf) (h.registry hwf hs)
  muxL := h'.muxL.trans h.muxL
  muxU := h'.muxU.trans h.muxU
  cs := h'.cs.trans h.cs
  bracket := h'.bracket.trans h.bracket
  lastByteEnd := h'.lastByteEnd.trans h.lastByteEnd
  settledAt := h'.settledAt.trans h.settledAt
  peers := h'.peers.trans h.peers
  bus := h'.bus.trans h.bus
  now := h.now.trans h'.now

theorem handledBy_mono {a b : Nat} (h : HandledBy s a) (hparams : t.params = s.params)
    (hpeers : t.peers = s.peers) (hab : a ≤ b) : HandledBy t b := by
  intro hkeep p hp
  rw [hparams] at hkeep
  rw [hpeers] at hp
  exact (h hkeep p hp).trans hab

theorem Quiet.isOpen (h : Quiet s t) : t.isOpen = s.isOpen := by rw [isOpen_eq, isOpen_eq, h.bracket]

theorem Quiet.muxCh (h : Quiet s t) : t.muxCh = s.muxCh := by
  rw [State.muxCh, State.muxCh, h.muxL, h.muxU]

theorem Quiet.byteStart (h : Quiet s t) : s.byteStart ≤ t.byteStart := by
  have := h.now
  unfold State.byteStart
  rw [h.lastByteEnd, h.params]
  split <;> omega

theorem Quiet.steady (h : Quiet s t) (hs : Steady s) : Steady t where
  params := h.params ▸ hs.params
  memory := h.memory hs.memory
  peers := by rw [h.peers, h.params, hs.peers]
  errors := h.errors hs.errors
  registry := h.registry hs.params hs.registry
  bus := by rw [h.bus, h.isOpen, hs.bus]
  byteEnd e he := (hs.byteEnd e (h.lastByteEnd ▸ he)).trans h.now
  handled := handledBy_mono hs.handled h.params h.peers (by rw [h.params]; exact Nat.add_le_add_right h.now _)

theorem Quiet.holds (h : Quiet s t) (hs : p.holds s) : p.holds t := by
  have hnow := h.now
  cases p with
  | free => rwa [Phase.holds, h.cs, h.bracket]
  | aimed ch =>
    obtain ⟨hcs, hb, hmux, hsettled⟩ := hs
    exact ⟨h.cs.trans hcs, h.bracket.trans hb, h.muxCh.trans hmux, by
      rw [h.settledAt, h.params]
      omega⟩
  | ready ch =>
    obtain ⟨hcs, hb, hmux, hsettled, hhandled⟩ := hs
    exact ⟨h.cs.trans hcs, h.bracket.trans hb, h.muxCh.trans hmux,
      h.settledAt ▸ hsettled.trans hnow, handledBy_mono hhandled h.params h.peers hnow⟩
  | low =>
    obtain ⟨⟨i, hb, hi, hselected⟩, hhandled⟩ := hs
    exact ⟨⟨i, h.bracket.trans hb, h.params ▸ hi,
      selects_mono hselected h.cs h.muxCh h.settledAt hnow⟩,
      handledBy_mono hhandled h.params h.peers h.byteStart⟩
  | high =>
    obtain ⟨i, hb, hi, hcs⟩ := hs
    exact ⟨i, h.bracket.trans hb, h.params ▸ hi, h.cs.trans hcs⟩

theorem Quiet.safeIn (h : Quiet s t) (hs : SafeIn p s) : SafeIn p t :=
  ⟨h.steady hs.steady, h.holds hs.holds⟩

theorem Quiet.atRest (h : Quiet s t) (hs : AtRest s) : AtRest t := hs.imp h.holds h.holds

/-- An update that leaves the SPI side and the sequencer alone keeps the invariant. -/
theorem inv_of_quiet (hs : Inv s) (h : Quiet s t) (hseq : t.seq = s.seq) : Inv t := by
  refine inv_of_steady (h.steady (steady_of_inv hs)) ?_
  have hpins := hs.pins
  unfold PinsOk at hpins ⊢
  rw [hseq, h.params]
  split at hpins
  · exact h.atRest hpins
  · obtain ⟨p, hholds, hsafe⟩ := hpins
    exact ⟨p, h.holds hholds, hsafe⟩

/-! ## The updates that leave the SPI side alone -/

theorem code_bounds (k : ErrorKind) :
    1 ≤ (BitVec.ofNat 8 k.code).toNat ∧ (BitVec.ofNat 8 k.code).toNat ≤ 12 := by
  cases k <;> decide

theorem record_quiet (k : ErrorKind) (info : Half) : Quiet s (s.record k info) where
  errors _ := by
    have hkind : (s.record k info).errKind ≠ 0 := fun h0 => mask_ne_zero k (BitVec.or_eq_zero_iff.1 h0).2
    exact ⟨fun h0 => absurd h0 hkind, fun _ => code_bounds k⟩

theorem clearErrors_quiet (w : Word) : Quiet s (s.clearErrors w) := by
  unfold State.clearErrors
  dsimp only
  split
  · exact { errors := fun _ => ⟨fun _ => ⟨rfl, rfl⟩, fun h0 => absurd rfl h0⟩ }
  · rename_i hkind
    have hkept : s.errKind ≠ 0 := fun h0 => hkind (by rw [h0]; exact BitVec.zero_and)
    exact { errors := fun he => ⟨fun h0 => absurd h0 hkind, fun _ => he.2 hkept⟩ }

/-- No byte of the window of the registry (R42). -/
def OutsideRegistry (off : Nat) : Prop := off < 0x500 ∨ 0x600 ≤ off

theorem writeByte_quiet {off : Nat} (b : Byte) (h : OutsideRegistry off) : Quiet s (s.writeByte off b) where
  memory := writeByte_wf s off b
  registry hwf hs i hi := by
    have hn := nSlaves_le_of_wf hwf
    rw [State.writeByte_params] at hi
    unfold OutsideRegistry at h
    rw [State.slaveIdOf, State.muscleIdOf, registryBase, readByte_writeByte_other _ _ _ _ (by omega),
      readByte_writeByte_other _ _ _ _ (by omega)]
    exact hs i hi

theorem updateRecord_quiet (i : Nat) (c d : Byte) (v : Half) (r : List Byte) :
    Quiet s (s.updateRecord i c d v r) :=
  updateRecord_induct (Quiet s) (fun _ off _ hoff ht => (ht.trans (writeByte_quiet _ (.inr hoff))).trans
    (writeByte_quiet _ (.inr (Nat.le_succ_of_le hoff)))) s {} i c d v r

theorem finish_quiet : Quiet s s.finish := {}

theorem keepBatch_quiet (count : Byte) (trailer : Half) : Quiet s (s.keepBatch count trailer) :=
  (writeByte_quiet (off := cmdBatchBase) count (.inl (by decide))).trans {}

/-! ## The bus history -/

theorem busOpen_append (events : List BusEvent) (e : BusEvent) :
    busOpen (events ++ [e]) = (busOpen events).bind (busStep · e) := by
  rw [busOpen, List.foldlM_append]
  simp [busOpen]

theorem isOpen_of_bracket_opened {i : Nat} (h : s.bracket = .opened i) : s.isOpen = true :=
  isOpen_of_opened (by rw [h]; nofun)

/-! ## The updates of the SPI side -/

theorem closed_of_holds (h : p.holds s) (hlow : p ≠ .low) (hhigh : p ≠ .high) : Phase.free.holds s := by
  cases p with
  | free => exact h
  | aimed | ready =>
    obtain ⟨hcs, hb, -⟩ := h
    exact ⟨hcs, hb⟩
  | low => exact absurd rfl hlow
  | high => exact absurd rfl hhigh

/-- `SetMux` outside a bracket (R87). -/
theorem setMux_safeIn (h : SafeIn p s) (hlow : p ≠ .low) (hhigh : p ≠ .high) (ch : BitVec 6) :
    SafeIn (.aimed ch) (s.setMux ch) := by
  obtain ⟨hcs, hb⟩ := closed_of_holds h.holds hlow hhigh
  exact ⟨{ h.steady with }, hcs, hb, setMux_muxCh ch s, Nat.le_refl _⟩

/-- After `Wait(T_SETTLE)` the line is settled, and a slave that keeps up has handled its last byte (R87,
R165). -/
theorem settle_safeIn {ch : BitVec 6} (h : SafeIn (.aimed ch) s) : SafeIn (.ready ch) s.settle := by
  have hsteady : Steady s.settle := Quiet.steady { now := Nat.le_add_right _ _ } h.steady
  obtain ⟨hcs, hb, hmux, hsettled⟩ := h.holds
  refine ⟨hsteady, hcs, hb, hmux, hsettled, fun hkeep p hp => ?_⟩
  have hready : p.readyAt ≤ s.now + s.params.tSlaveIsr := h.steady.handled hkeep p hp
  have hfast : s.params.slavesKeepUp = true := hkeep
  simp only [Params.slavesKeepUp, Bool.and_eq_true, decide_eq_true_eq] at hfast
  rw [State.settle_now]
  omega

/-- `SetCS(LOW)` on a settled slave channel opens a bracket on that slave (R98, R101). -/
theorem assertCs_safeIn {i : Nat} (h : SafeIn (.ready (slaveChannel i)) s) (hi : i < s.params.nSlaves) :
    SafeIn .low (s.assertCs i) := by
  obtain ⟨-, hb, hmux, hsettled, hhandled⟩ := h.holds
  have hclosed : s.isOpen = false := by rw [isOpen_eq, hb]; rfl
  refine ⟨{ h.steady with bus := ?_, byteEnd := nofun }, ⟨i, rfl, hi, ?_⟩, hhandled⟩
  · rw [State.assertCs_bus, busOpen_append, h.steady.bus, hclosed]
    rfl
  · have hmux' : (s.assertCs i).muxCh = slaveChannel i := hmux
    rw [State.selects, hmux']
    exact Bool.and_eq_true_iff.2 ⟨by simp, decide_eq_true hsettled⟩

theorem raiseCs_safeIn (h : SafeIn .low s) : SafeIn .high s.raiseCs := by
  obtain ⟨⟨i, hb, hi, -⟩, -⟩ := h.holds
  exact ⟨{ h.steady with }, i, hb, hi, rfl⟩

/-- `End()` closes the bracket (R101). -/
theorem endNow_safeIn (h : Steady s) (hopen : s.isOpen = true) : SafeIn .free s.endNow := by
  refine ⟨{ h with bus := ?_ }, rfl, rfl⟩
  rw [State.endNow_bus, busOpen_append, h.bus, hopen]
  rfl

/-! ## The byte exchange -/

theorem exchange_readyAt (ps : Params) (start : Nat) (m : Byte) (p : Peer) (d : Draws) :
    (p.exchange ps start m d).2.1.readyAt = p.handledBy ps start := by
  unfold Peer.exchange
  dsimp only
  split <;> rfl

/-- What an exchange makes of the list of peers: one of them handles the byte, or none. -/
theorem exchange_peers_cases (s : State) (out : Byte) : (s.exchange out).peers = s.peers ∨
    ∃ i p, s.peers[i]? = some p ∧
      (s.exchange out).peers = s.peers.set i (p.exchange s.params s.byteStart out s.draws).2.1 := by
  rw [State.exchange_peers]
  unfold State.busReply
  split
  · exact .inl rfl
  · rename_i i _
    unfold State.peerReply
    split
    · exact .inl rfl
    · rename_i p hp
      split
      · exact .inr ⟨i, p, hp, rfl⟩
      · exact .inl rfl

theorem exchange_peers_length (s : State) (out : Byte) :
    (s.exchange out).peers.length = s.peers.length := by
  rcases exchange_peers_cases s out with h | ⟨i, p, -, h⟩
  · rw [h]
  · rw [h, List.length_set]

/-- Where the slaves keep up and had handled their last bytes when the exchange starts, they have handled its
byte `T_SLAVE_ISR` later (R165). -/
theorem exchange_handledBy (h : HandledBy s s.byteStart) (out : Byte) :
    HandledBy (s.exchange out) (s.byteStart + s.params.tSlaveIsr) := by
  intro hkeep q hq
  rcases exchange_peers_cases s out with hpeers | ⟨i, p, hp, hpeers⟩
  · rw [hpeers] at hq
    exact (h hkeep q hq).trans (Nat.le_add_right _ _)
  · rw [hpeers] at hq
    rcases List.mem_or_eq_of_mem_set hq with hold | rfl
    · exact (h hkeep q hold).trans (Nat.le_add_right _ _)
    · rw [exchange_readyAt, Peer.handledBy, Nat.max_eq_left (h hkeep p (List.mem_of_getElem? hp))]

/-- A byte exchanged in a bracket, and the next one is not early either (R99, R100, R165). -/
theorem exchange_safeIn (h : SafeIn .low s) (out : Byte) : SafeIn .low (s.exchange out) := by
  obtain ⟨⟨i, hb, hi, hselected⟩, hhandled⟩ := h.holds
  have hafter := exchange_handledBy hhandled out
  refine ⟨{ h.steady with
      peers := (exchange_peers_length s out).trans h.steady.peers
      bus := ?_
      byteEnd := ?_
      handled := hafter },
    ⟨i, hb, hi, selects_mono hselected rfl rfl rfl (byteStart_ge s)⟩, fun hkeep q hq => ?_⟩
  · have hopen : (s.exchange out).isOpen = s.isOpen := rfl
    rw [State.exchange_bus, busOpen_append, h.steady.bus, hopen, isOpen_of_bracket_opened hb]
    rfl
  · rintro e he
    cases he
    exact Nat.le_refl _
  · have hfast : s.params.slavesKeepUp = true := hkeep
    simp only [Params.slavesKeepUp, Bool.and_eq_true, decide_eq_true_eq] at hfast
    have := hafter hkeep q hq
    rw [byteStart_exchange]
    omega

/-! ## The end of an operation -/

theorem atRest_of_holds (h : p.holds s) (hhigh : p ≠ .high) : AtRest s := by
  by_cases hlow : p = .low
  · subst hlow
    exact .inr h
  · exact .inl (closed_of_holds h hlow hhigh)

/-- `raise` closes the operation's own bracket, or leaves the pins as they are (R149). -/
theorem raiseError_safe (h : SafeIn p s) (hhigh : p ≠ .high) (k : ErrorKind) (info : Half) (loc : Locals) :
    Steady (s.raiseError k info loc) ∧ AtRest (s.raiseError k info loc) := by
  have hrecord : SafeIn p (s.record k info) := (record_quiet k info).safeIn h
  unfold State.raiseError
  dsimp only
  split
  · rename_i hown
    have hend := endNow_safeIn hrecord.steady (Bool.and_eq_true_iff.1 hown).2
    exact ⟨finish_quiet.steady hend.steady, .inl (finish_quiet.holds hend.holds)⟩
  · exact ⟨finish_quiet.steady hrecord.steady, finish_quiet.atRest (atRest_of_holds hrecord.holds hhigh)⟩

end
end Sys2Proof.Proofs
end

section
/-! SUPPORT. The steps of the sequencer in a safe state (60_exceptions.md R147; 44_spi_transport.md R98 to
R102): each takes the phase where `Phase.after` says, and what it puts before the rest keeps that phase. -/

namespace Sys2Proof.Proofs

open Sys2Proof.Machine Sys2Proof.Safety

/-! ## Lists of steps and the phases they lead through -/

section
variable {n : Nat} {p q r : Phase} {m : Micro} {l k : List Micro}

theorem safeSteps_cons_iff : safeSteps n p (m :: l) = true ↔
    storesSafely n m = true ∧ ∃ q, p.after n m = some q ∧ safeSteps n q l = true := by
  rw [safeSteps, Bool.and_eq_true]
  cases p.after n m <;> simp

/-- The steps `l` lead from the phase `p` to `q`: what is safe to do in `q` is safe after them. -/
def Passes (n : Nat) (p : Phase) (l : List Micro) (q : Phase) : Prop :=
  ∀ rest, safeSteps n q rest = true → safeSteps n p (l ++ rest) = true

theorem passes_nil : Passes n p [] p := fun _ h => h

theorem passes_cons (hstore : storesSafely n m = true) (hafter : p.after n m = some q)
    (h : Passes n q l r) : Passes n p (m :: l) r :=
  fun rest hrest => safeSteps_cons_iff.2 ⟨hstore, q, hafter, h rest hrest⟩

theorem passes_append (h : Passes n p l q) (h' : Passes n q k r) : Passes n p (l ++ k) r := by
  intro rest hrest
  rw [List.append_assoc]
  exact h _ (h' _ hrest)

theorem passes_flatMap {α : Type} {f : α → List Micro} {as : List α}
    (h : ∀ a ∈ as, Passes n p (f a) p) : Passes n p (as.flatMap f) p := by
  induction as with
  | nil => exact passes_nil
  | cons a as ih =>
    rw [List.forall_mem_cons] at h
    obtain ⟨ha, has⟩ := h
    rw [List.flatMap_cons]
    exact passes_append ha (ih has)

/-- Steps that each keep the phase. -/
theorem passes_of_forall (h : ∀ m ∈ l, storesSafely n m = true ∧ p.after n m = some p) :
    Passes n p l p := by
  induction l with
  | nil => exact passes_nil
  | cons m l ih =>
    rw [List.forall_mem_cons] at h
    obtain ⟨⟨hstore, hafter⟩, hl⟩ := h
    exact passes_cons hstore hafter (ih hl)

theorem passes_map {α : Type} {f : α → Micro} {as : List α}
    (h : ∀ a ∈ as, storesSafely n (f a) = true ∧ p.after n (f a) = some p) :
    Passes n p (as.map f) p :=
  passes_of_forall (List.forall_mem_map.2 h)

theorem safe_of_passes (hq : q ≠ .high) (h : Passes n p l q) : safeSteps n p l = true := by
  have := h [] (decide_eq_true hq)
  rwa [List.append_nil] at this

theorem inBuffers_of_bounds {off : Nat} (hlow : 0x200 ≤ off) (hhigh : off < 0x500) : inBuffers off = true :=
  (inBuffers_iff off).2 ⟨hlow, hhigh⟩

theorem outsideRegistry_of_inBuffers {off : Nat} (h : inBuffers off = true) : OutsideRegistry off :=
  .inl ((inBuffers_iff off).1 h).2

/-- The replies that `TXN` and `SWAP` keep go to the slave's row of `RXBUF` (R119). -/
theorem keptReplies_pass {i len : Nat} (hn : n ≤ 24) (hi : i < n) (hlen : len ≤ 8) (b : Nat → Byte) :
    Passes n p ((List.range len).map fun k => .poke (rxBufBase + 8 * i + k) (b k)) p := by
  refine passes_map fun k hk => ⟨?_, rfl⟩
  rw [List.mem_range] at hk
  exact inBuffers_of_bounds (by rw [rxBufBase]; omega) (by rw [rxBufBase]; omega)

/-- The steps after the count byte of a frame store its records in the command batch (R135). -/
theorem readRecords_pass (hp : p ≠ .high) (check : RxCheck) {c : Byte} (hc : ¬ Config.cmdMax < c.toNat) :
    Passes n p (readRecords check c) p := by
  have hkeep (m : Micro) : (if p = .high then none else some p) = some p := if_neg hp
  refine passes_append (passes_append (passes_map fun j hj => ⟨?_, hkeep (.takeInto j)⟩) ?_)
    (passes_cons rfl (hkeep (.keepBatch c)) passes_nil)
  · rw [List.mem_range] at hj
    rw [Config.cmdMax] at hc
    exact inBuffers_of_bounds (by rw [cmdBatchBase]; omega) (by rw [cmdBatchBase]; omega)
  · split
    · exact passes_nil
    · exact passes_cons rfl (hkeep (.takeTrailer c)) passes_nil

end

/-! ## What a step keeps -/

/-- A step that leads to the phase `q` gives a state of that phase, with only steps that keep it put before the
rest, or ends the operation with the pins at rest. -/
def Keeps (n : Nat) (q : Phase) : Progress → Prop
  | .go t _ more => SafeIn q t ∧ Passes n q more q
  | .waits => True
  | .stops t => Steady t ∧ AtRest t

section
variable {n : Nat} {p q : Phase} {s t : State}

theorem keeps_go (h : SafeIn q t) {loc : Locals} : Keeps n q (.go t loc []) := ⟨h, passes_nil⟩

theorem keeps_of_quiet (h : SafeIn p s) (ht : Quiet s t) {loc : Locals} : Keeps n p (.go t loc []) :=
  keeps_go (ht.safeIn h)

theorem takeByte_keeps (h : SafeIn p s) {k : Byte → State → Progress}
    (hk : ∀ b u, SafeIn p u → Keeps n p (k b u)) : Keeps n p (s.takeByte k) := by
  unfold State.takeByte
  split
  · trivial
  · exact hk _ _ (Quiet.safeIn {} h)

theorem searchStep_keeps (h : SafeIn p s) (hp : p ≠ .high) (loc : Locals) (b : Byte) :
    Keeps n p (searchStep loc b s) := by
  have hshift : SafeIn p (s.shiftWindow b) := Quiet.safeIn {} h
  unfold searchStep
  dsimp only
  split
  · exact keeps_go hshift
  split
  · exact raiseError_safe hshift hp _ _ _
  · exact ⟨hshift, passes_cons rfl (if_neg hp) passes_nil⟩

theorem countStep_keeps (h : SafeIn p s) (hp : p ≠ .high) (loc : Locals) (c : Byte) :
    Keeps n p (countStep loc c s) := by
  unfold countStep
  split
  · exact raiseError_safe h hp _ _ _
  · rename_i hc
    exact ⟨h, readRecords_pass hp _ hc⟩

theorem trailerStep_keeps (h : SafeIn p s) (hp : p ≠ .high) (c : Byte) (loc : Locals) (b : Byte) :
    Keeps n p (trailerStep c loc b s) := by
  unfold trailerStep
  split
  · exact keeps_go h
  split
  · exact raiseError_safe h hp _ _ _
  · exact keeps_of_quiet h (record_quiet _ _)

/-- A record appended goes to the sensor batch, which has room for it (R121). -/
theorem appendStep_keeps (h : SafeIn p s) (id : Byte) (v : Half) (loc : Locals) :
    Keeps n p (appendStep id v loc s) := by
  unfold appendStep
  dsimp only
  split
  · exact keeps_of_quiet h (record_quiet _ _)
  · rename_i hroom
    rw [Config.sensMax] at hroom
    have hstore (off : Nat) (hlow : sensBatchBase ≤ off) (hhigh : off ≤ sensBatchBase + 115) (b : Byte) :
        storesSafely n (.poke off b) = true :=
      inBuffers_of_bounds (by rw [sensBatchBase] at hlow; omega) (by rw [sensBatchBase] at hhigh; omega)
    exact ⟨h, passes_cons (hstore _ (by omega) (by omega) _) rfl <|
      passes_cons (hstore _ (by omega) (by omega) _) rfl <|
      passes_cons (hstore _ (by omega) (by omega) _) rfl <|
      passes_cons (hstore _ (by omega) (by omega) _) rfl passes_nil⟩

theorem exchangeStep_keeps (h : SafeIn .low s) (out : Byte) {dest : Dest}
    (hstore : storesSafely s.params.nSlaves (.exchange out dest) = true) (loc : Locals) :
    Keeps n .low (exchangeStep out dest loc s) := by
  have hexchange := exchange_safeIn h out
  cases dest with
  | discard => exact keeps_go hexchange
  | rxBuf i k =>
    have hn := nSlaves_le_of_wf h.steady.params
    simp only [storesSafely, Bool.and_eq_true, decide_eq_true_eq] at hstore
    exact keeps_of_quiet hexchange (writeByte_quiet _ (.inl (by rw [rxBufBase]; omega)))

theorem keepReplies_keeps (h : SafeIn p s) {i len : Nat}
    (hstore : storesSafely s.params.nSlaves (.keepReplies i len) = true) (loc : Locals) :
    Keeps s.params.nSlaves p (stepMicro (.keepReplies i len) loc s) := by
  simp only [storesSafely, Bool.and_eq_true, decide_eq_true_eq] at hstore
  obtain ⟨hi, hlen⟩ := hstore
  exact ⟨h, keptReplies_pass (nSlaves_le_of_wf h.steady.params) hi hlen _⟩

/-- A safe step of a safe state keeps it safe. -/
theorem stepMicro_keeps (h : SafeIn p s) {m : Micro} (hstore : storesSafely s.params.nSlaves m = true)
    (hafter : p.after s.params.nSlaves m = some q) (loc : Locals) :
    Keeps s.params.nSlaves q (stepMicro m loc s) := by
  cases m with
  | setMux ch =>
    obtain ⟨hpins, ⟨⟩⟩ := Option.ite_none_left_eq_some.1 hafter
    obtain ⟨hlow, hhigh⟩ := not_or.1 hpins
    exact keeps_go (setMux_safeIn h hlow hhigh ch)
  | settle =>
    cases p with
    | aimed ch =>
      obtain rfl : Phase.ready ch = q := Option.some.inj hafter
      exact keeps_go (settle_safeIn h)
    | free | ready | low | high => cases hafter
  | assertCs i =>
    obtain ⟨⟨rfl, hi⟩, ⟨⟩⟩ := Option.ite_none_right_eq_some.1 hafter
    exact keeps_go (assertCs_safeIn h hi)
  | raiseCs =>
    obtain ⟨rfl, ⟨⟩⟩ := Option.ite_none_right_eq_some.1 hafter
    exact keeps_go (raiseCs_safeIn h)
  | releaseCs =>
    obtain ⟨rfl, ⟨⟩⟩ := Option.ite_none_right_eq_some.1 hafter
    obtain ⟨i, hb, -⟩ := h.holds
    exact keeps_go (endNow_safeIn h.steady (isOpen_of_bracket_opened hb))
  | exchange out dest =>
    obtain ⟨rfl, ⟨⟩⟩ := Option.ite_none_right_eq_some.1 hafter
    exact exchangeStep_keeps h out hstore loc
  | startSearch =>
    obtain ⟨-, ⟨⟩⟩ := Option.ite_none_left_eq_some.1 hafter
    exact keeps_of_quiet h {}
  | searchByte =>
    obtain ⟨hp, ⟨⟩⟩ := Option.ite_none_left_eq_some.1 hafter
    exact takeByte_keeps h fun b _ hu => searchStep_keeps hu hp loc b
  | takeCount =>
    obtain ⟨hp, ⟨⟩⟩ := Option.ite_none_left_eq_some.1 hafter
    exact takeByte_keeps h fun c _ hu => countStep_keeps hu hp loc c
  | takeInto off =>
    obtain ⟨-, ⟨⟩⟩ := Option.ite_none_left_eq_some.1 hafter
    exact takeByte_keeps (k := fun b t => .go (t.writeByte off b) loc []) h fun b _ hu =>
      keeps_of_quiet hu (writeByte_quiet b (outsideRegistry_of_inBuffers hstore))
  | takeTrailer c =>
    obtain ⟨hp, ⟨⟩⟩ := Option.ite_none_left_eq_some.1 hafter
    exact takeByte_keeps h fun b _ hu => trailerStep_keeps hu hp c loc b
  | raise k info =>
    obtain ⟨hp, ⟨⟩⟩ := Option.ite_none_left_eq_some.1 hafter
    exact raiseError_safe h hp k info loc
  | keepBatch c =>
    obtain ⟨hp, ⟨⟩⟩ := Option.ite_none_left_eq_some.1 hafter
    have hkeep : Quiet s (s.keepBatch c (zext loc.trailer)) := keepBatch_quiet _ _
    exact ⟨hkeep.steady h.steady, hkeep.atRest (atRest_of_holds h.holds hp)⟩
  | poke off b =>
    obtain rfl : p = q := Option.some.inj hafter
    exact keeps_of_quiet h (writeByte_quiet b (outsideRegistry_of_inBuffers hstore))
  | keepReplies i len =>
    obtain rfl : p = q := Option.some.inj hafter
    exact keepReplies_keeps h hstore loc
  | updateRecord i c d v =>
    obtain rfl : p = q := Option.some.inj hafter
    exact keeps_of_quiet h (updateRecord_quiet i c d v _)
  | append id v =>
    obtain rfl : p = q := Option.some.inj hafter
    exact appendStep_keeps h id v loc
  | appendReply id =>
    obtain rfl : p = q := Option.some.inj hafter
    exact appendStep_keeps h id _ _
  | flag k info =>
    obtain rfl : p = q := Option.some.inj hafter
    exact keeps_of_quiet h (record_quiet k info)
  | sampleAdc | countUnknown | transmit | result | resultReply8 | resultReply16 | resultTxn | resultSwap
  | resultSearch | setDac =>
    obtain rfl : p = q := Option.some.inj hafter
    exact keeps_of_quiet h {}

/-- An operation that runs in a phase from which its steps are safe. -/
theorem inv_of_running (h : SafeIn p s) {r : Running} (hr : s.seq = .running r)
    (hsafe : safeSteps s.params.nSlaves p r.todo = true) : Inv s :=
  inv_of_steady h.steady (by
    rw [PinsOk, hr]
    exact ⟨p, h.holds, hsafe⟩)

theorem phase_of_inv (h : Inv s) {r : Running} (hr : s.seq = .running r) :
    ∃ p, SafeIn p s ∧ safeSteps s.params.nSlaves p r.todo = true := by
  have hpins := h.pins
  rw [PinsOk, hr] at hpins
  obtain ⟨p, hholds, hsafe⟩ := hpins
  exact ⟨p, ⟨steady_of_inv h, hholds⟩, hsafe⟩

/-- Every step of the sequencer keeps the invariant. -/
theorem tick_inv (s : State) (h : Inv s) : Inv (tick s) := by
  unfold tick
  split
  · exact h
  rename_i r hr
  obtain ⟨p, hin, hsafe⟩ := phase_of_inv h hr
  split
  · rename_i hnil
    rw [hnil] at hsafe
    exact inv_of_atRest (finish_quiet.steady hin.steady) rfl
      (finish_quiet.atRest (atRest_of_holds hin.holds (of_decide_eq_true hsafe)))
  rename_i m rest htodo
  rw [htodo, safeSteps_cons_iff] at hsafe
  obtain ⟨hstore, q, hafter, hrest⟩ := hsafe
  have hkeeps := stepMicro_keeps hin hstore hafter r.loc
  have hframe := stepMicro_frame m r.loc s
  split
  · rename_i t loc more ht
    rw [ht] at hkeeps hframe
    obtain ⟨hin', hmore⟩ := hkeeps
    have hparams : t.params = s.params := StepFrame.params hframe
    exact inv_of_running (Quiet.safeIn {} hin') rfl (hparams ▸ hmore rest hrest)
  · exact h
  · rename_i t ht
    rw [ht] at hkeeps
    obtain ⟨hsteady, hatRest⟩ := hkeeps
    exact inv_of_atRest hsteady (stepMicro_stops _ _ _ _ ht) hatRest

theorem drain_inv (h : Inv s) : Inv (drain s) := drain_induct tick_inv h

end
end Sys2Proof.Proofs
end

section
/-! SUPPORT. The steps of every operation are safe from the phase the block rests in (60_exceptions.md R148;
44_spi_transport.md R98 to R102): outside a bracket an operation opens and closes its own, and with one open
it exchanges bytes in it, closes it or is refused. -/

namespace Sys2Proof.Proofs

open Sys2Proof.Machine Sys2Proof.Safety

/-- The phase in which an idle block is: no bracket, or one open on a slave. -/
def RestPhase (s : State) (p : Phase) : Prop :=
  (p = .free ∧ s.bracket = .closed) ∨ (p = .low ∧ ∃ i, s.bracket = .opened i ∧ i < s.params.nSlaves)

/-! ## The parts of an operation -/

section
variable {n : Nat} {p : Phase}

theorem raise_safe (hp : p ≠ .high) (k : ErrorKind) (info : Half) :
    safeSteps n p [.raise k info] = true :=
  safe_of_passes hp (passes_cons rfl (if_neg hp) passes_nil)

theorem rangeFlag_pass (x : Half) (full : Nat) : Passes n p (rangeFlag x full) p := by
  unfold rangeFlag
  split
  · exact fun _ h => h
  · exact passes_nil

theorem rescaleSteps_pass (x : Half) (full target : Nat) : Passes n p (rescaleSteps x full target) p :=
  passes_append (rangeFlag_pass x full) fun _ h => h

/-- `Begin(i)` leads into the bracket of an existing slave, and `End()` out of it (R101). -/
theorem beginSteps_pass {i : Nat} (hi : i < n) : Passes n .free (beginSteps i) .low :=
  passes_cons rfl rfl (passes_cons rfl rfl (passes_cons rfl (if_pos ⟨rfl, hi⟩) passes_nil))

theorem endSteps_pass : Passes n .low endSteps .free := fun _ h => h

theorem exchanges_pass {α : Type} (f : α → Byte) (as : List α) :
    Passes n .low (as.map fun a => .exchange (f a) .discard) .low :=
  passes_map fun _ _ => ⟨rfl, rfl⟩

theorem exchangeAll_pass {i len : Nat} (hi : i < n) (hlen : len ≤ 8) (out : Nat → Byte) :
    Passes n .low (exchangeAll out i len) .low := by
  refine passes_map fun k hk => ⟨?_, rfl⟩
  have hk := List.mem_range.1 hk
  exact Bool.and_eq_true_iff.2 ⟨decide_eq_true hi, decide_eq_true (by omega)⟩

/-- One bracket for each target (R109). -/
theorem bracketAll_pass {tier : Nat → List Micro} {targets : List Nat} (ht : ∀ i ∈ targets, i < n)
    (htier : ∀ i < n, Passes n .low (tier i) .low) : Passes n .free (bracketAll tier targets) .free :=
  passes_flatMap fun i hi => passes_append
    (passes_append (beginSteps_pass (ht i hi)) (htier i (ht i hi))) endSteps_pass

theorem txnBytes_length_le (c d : Byte) (v : Half) : (txnBytes c d v).length ≤ 8 := by
  unfold txnBytes
  split <;> simp

/-- The bracket of a transaction, and what is kept of its replies (R119, R122). -/
theorem transaction_pass {i len : Nat} (hi : i < n) (hlen : len ≤ 8) (bytes : List Byte) (c d : Byte)
    (v : Half) {more : List Micro} (hmore : Passes n .free more .free) :
    Passes n .free (beginSteps i ++ bytes.map (fun b => .exchange b .discard) ++ endSteps ++
      .keepReplies i len :: .updateRecord i c d v :: more) .free := by
  have hkeep : storesSafely n (.keepReplies i len) = true :=
    Bool.and_eq_true_iff.2 ⟨decide_eq_true hi, decide_eq_true hlen⟩
  have hbracket := passes_append (beginSteps_pass hi) (exchanges_pass id bytes)
  exact passes_append (passes_append hbracket endSteps_pass)
    (passes_cons hkeep rfl (passes_cons rfl rfl hmore))

end

section
variable {s : State} {p : Phase}

theorem find?_range_lt {n i : Nat} {f : Nat → Bool} (h : (List.range n).find? f = some i) : i < n :=
  List.mem_range.1 (List.mem_of_find?_eq_some h)

/-- The targets of a slave operand are slaves of the machine (R103). -/
theorem targets_lt {a : Byte} {targets : List Nat} (h : s.targets a = some targets) :
    ∀ i ∈ targets, i < s.params.nSlaves := by
  unfold State.targets at h
  split at h
  · cases h
    exact fun i hi => List.mem_range.1 hi
  split at h
  · cases h
  · rename_i j hj
    cases h
    exact fun i hi => List.mem_singleton.1 hi ▸ find?_range_lt hj

theorem RestPhase.not_high (hp : RestPhase s p) : p ≠ .high := by
  rcases hp with ⟨rfl, -⟩ | ⟨rfl, -⟩ <;> nofun

/-- An operation that must not find a bracket open. -/
theorem safe_unless_open (hp : RestPhase s p) (k : ErrorKind) (info : Half) {l : List Micro}
    (h : safeSteps s.params.nSlaves .free l = true) :
    safeSteps s.params.nSlaves p (if s.isOpen then [.raise k info] else l) = true := by
  split
  · exact raise_safe hp.not_high k info
  · rename_i hclosed
    rcases hp with ⟨rfl, -⟩ | ⟨-, i, hb, -⟩
    · exact h
    · exact absurd (isOpen_of_bracket_opened hb) hclosed

/-- An operation that must find a bracket open. -/
theorem safe_if_open (hp : RestPhase s p) (k : ErrorKind) (info : Half) {l : List Micro}
    (h : safeSteps s.params.nSlaves .low l = true) :
    safeSteps s.params.nSlaves p (if s.isOpen then l else [.raise k info]) = true := by
  split
  · rename_i hopen
    rcases hp with ⟨-, hb⟩ | ⟨rfl, -⟩
    · exact absurd hopen (not_isOpen_of_closed hb)
    · exact h
  · exact raise_safe hp.not_high k info

/-! ## The families of operations -/

/-- The operations of section 3 (R109): a refusal for an open bracket, a length or an unknown slave, or one
bracket for each target. -/
theorem bracketed_safe (hp : RestPhase s p) {a : Byte} {check : List Micro} {tier : Nat → List Micro}
    {outcome : Nat → Micro} (hcheck : safeSteps s.params.nSlaves .free check = true)
    (htier : check = [] → ∀ i < s.params.nSlaves, Passes s.params.nSlaves .low (tier i) .low)
    (houtcome : ∀ k, Passes s.params.nSlaves .free [outcome k] .free) :
    safeSteps s.params.nSlaves p (bracketed a check tier outcome s) = true := by
  refine safe_unless_open hp _ _ ?_
  split
  · exact hcheck
  · rename_i hnone
    split
    · exact rfl
    · rename_i targets ht
      exact safe_of_passes (q := .free) nofun
        (passes_append (bracketAll_pass (targets_lt ht) (htier (not_not.1 hnone))) (houtcome _))

theorem checkCount_safe (n len : Nat) : safeSteps n .free (checkCount len) = true := by
  unfold checkCount
  split
  · rfl
  · exact rfl

theorem le_of_checkCount {len : Nat} (h : checkCount len = []) : len ≤ 8 := by
  unfold checkCount at h
  split at h
  · rename_i hgood
    exact ((goodCount_iff len).1 hgood).2
  · cases h

theorem replyOr_pass {n : Nat} {a : Byte} {m : Micro} (h : Passes n .free [m] .free) (k : Nat) :
    Passes n .free [replyOr a m k] .free := by
  unfold replyOr
  split
  · exact fun _ h => h
  · exact h

theorem stepsTxn_safe (hp : RestPhase s p) (a : Byte) (v : Half) :
    safeSteps s.params.nSlaves p (stepsTxn a v s) = true := by
  refine safe_unless_open hp _ _ ?_
  split
  · exact rfl
  · rename_i targets ht
    have hresult : Passes s.params.nSlaves .free
        [if targets.length = 1 then .resultTxn (decide (s.sensorId = 255)) else reached targets.length]
        .free := by
      split <;> exact fun _ h => h
    exact safe_of_passes (q := .free) nofun (passes_append (passes_flatMap fun i hi =>
      transaction_pass (targets_lt ht i hi) (txnBytes_length_le _ _ v) _ _ _ v passes_nil) hresult)

theorem swapRecord_pass (c d : Byte) (s : State) (k : Nat) :
    Passes s.params.nSlaves .free (swapRecord c d s k) .free := by
  unfold swapRecord
  dsimp only
  split
  · split <;> exact fun _ h => h
  · rename_i i hfound
    exact transaction_pass (find?_range_lt hfound) (by decide) _ c d _ fun _ h => h

theorem stepsSwap_safe (hp : RestPhase s p) : safeSteps s.params.nSlaves p (stepsSwap s) = true := by
  refine safe_unless_open hp _ _ ?_
  split
  · exact rfl
  split
  · exact rfl
  · have hpads : Passes s.params.nSlaves .free
        (List.replicate s.ctrl.padCount.toNat (.append 0 0)) .free :=
      passes_of_forall fun m hm => by
        rw [List.eq_of_mem_replicate hm]
        exact ⟨rfl, rfl⟩
    have hrecords : Passes s.params.nSlaves .free ((List.range (s.batchCount cmdBatchBase)).flatMap
        (swapRecord s.commandId s.sensorId s)) .free :=
      passes_flatMap fun k _ => swapRecord_pass _ _ s k
    exact passes_append (passes_cons rfl rfl hrecords) hpads _ rfl

theorem stepsXfern_safe (hp : RestPhase s p) (len : Nat) :
    safeSteps s.params.nSlaves p (stepsXfern len s) = true := by
  unfold stepsXfern
  split
  · exact raise_safe hp.not_high _ _
  · rename_i i hb
    rcases hp with ⟨-, hclosed⟩ | ⟨rfl, j, hopen, hj⟩
    · rw [hb] at hclosed
      cases hclosed
    · rw [hb, Bracket.opened.injEq] at hopen
      subst hopen
      split
      · rename_i hgood
        exact exchangeAll_pass hj ((goodCount_iff len).1 hgood).2 _ _ rfl
      · exact rfl

theorem selectSteps_safe (hp : RestPhase s p) (channel : Nat) {l : List Micro}
    (hl : ∀ ch, safeSteps s.params.nSlaves (.ready ch) l = true) :
    safeSteps s.params.nSlaves p (selectSteps channel s l) = true := by
  refine safe_unless_open hp _ _ ?_
  split
  · exact rfl
  · exact hl _

theorem stepsWrbatch_safe (hp : p ≠ .high) (n : Nat) (s : State) :
    safeSteps n p (stepsWrbatch s) = true := by
  unfold stepsWrbatch
  dsimp only
  split
  · exact raise_safe hp _ _
  · exact safe_of_passes hp (passes_append (passes_map fun _ _ => ⟨rfl, rfl⟩) fun _ h => h)

theorem search_pass {n : Nat} (hp : p ≠ .high) : Passes n p searchSteps p :=
  passes_cons rfl (if_neg hp) (passes_cons rfl (if_neg hp) passes_nil)

/-- The steps of every operation are safe from the phase of an idle block. -/
theorem stepsOf_safe (hp : RestPhase s p) (i : Instr) :
    safeSteps s.params.nSlaves p (stepsOf i s) = true := by
  have hhigh := hp.not_high
  have plain {l : List Micro} (h : Passes s.params.nSlaves p l p) :
      safeSteps s.params.nSlaves p l = true := safe_of_passes hhigh h
  cases i with
  | nop | srst | u16fb | bfu16 | lkmus | lkslv => exact plain fun _ h => h
  | u10to16 | u16to10 | u10to12 | u12to10 | u12to16 | u16to12 => exact plain (rescaleSteps_pass _ _ _)
  | clamp12 | adc2v | dacwr => exact plain (passes_append (rangeFlag_pass _ _) fun _ h => h)
  | muxsel channel => exact selectSteps_safe hp channel fun _ => rfl
  | adcsample channel => exact selectSteps_safe hp channel fun _ => rfl
  | beginBracket index =>
    refine safe_unless_open hp _ _ ?_
    split
    · exact rfl
    · rename_i hindex
      exact safe_of_passes (q := .low) nofun (beginSteps_pass (Nat.lt_of_not_le hindex))
  | endBracket => exact safe_if_open hp _ _ rfl
  | xfer8 out => exact safe_if_open hp _ _ rfl
  | xfer16 out => exact safe_if_open hp _ _ rfl
  | xfern len => exact stepsXfern_safe hp len
  | swr8 | swr16 => exact bracketed_safe hp rfl (fun _ _ _ _ h => h) fun _ _ h => h
  | srd8 | srw8 | srd16 | srw16 =>
    exact bracketed_safe hp rfl (fun _ _ hi => exchangeAll_pass hi (by decide) _)
      (replyOr_pass fun _ h => h)
  | swrn a len =>
    exact bracketed_safe hp (checkCount_safe _ len) (fun _ _ _ => exchanges_pass _ _) fun _ _ h => h
  | srdn a len | srwn a len =>
    exact bracketed_safe hp (checkCount_safe _ len)
      (fun hcheck _ hi => exchangeAll_pass hi (le_of_checkCount hcheck) _) fun _ _ h => h
  | txn a v => exact stepsTxn_safe hp a v
  | swap => exact stepsSwap_safe hp
  | mirror =>
    simp only [stepsOf, stepsMirror]
    split
    · exact raise_safe hhigh _ _
    · exact plain (passes_append (rangeFlag_pass _ _) fun _ h => h)
  | sync => exact plain (passes_append (search_pass hhigh) fun _ h => h)
  | rdbatch =>
    exact plain (passes_append (passes_cons rfl rfl (search_pass hhigh))
      (passes_cons rfl (if_neg hhigh) passes_nil))
  | wrbatch => exact stepsWrbatch_safe hhigh _ s
  | cksumtx =>
    simp only [stepsOf, stepsCksumtx]
    split
    · exact raise_safe hhigh _ _
    · exact plain fun _ h => h
  | clrbatch selector =>
    simp only [stepsOf, stepsClrbatch]
    split
    · exact plain fun _ h => h
    split
    · exact plain fun _ h => h
    · exact raise_safe hhigh _ _
  | putrec id v =>
    simp only [stepsOf, stepsPutrec]
    split
    · exact raise_safe hhigh _ _
    · exact plain fun _ h => h

end
end Sys2Proof.Proofs
end

section
/-! SUPPORT. The moves of the other agents in a safe state (20_memory.md R42 to R47; 60_exceptions.md R145,
R148; 70_reset_and_hazards.md R159, R160), and the invariant kept by every step of the machine. -/

namespace Sys2Proof.Proofs

open Sys2Proof.Machine Sys2Proof.Safety

section
variable {s t : State}

/-! ## An operation accepted -/

/-- A safe state is in a phase; an idle one in the phase of its bracket. -/
theorem exists_safeIn (h : Inv s) : ∃ p, SafeIn p s := by
  cases hseq : s.seq with
  | idle =>
    rcases atRest_of_inv h hseq with hfree | hlow
    · exact ⟨_, steady_of_inv h, hfree⟩
    · exact ⟨_, steady_of_inv h, hlow⟩
  | running r =>
    obtain ⟨p, hin, -⟩ := phase_of_inv h hseq
    exact ⟨p, hin⟩

theorem exists_restPhase (h : Inv s) (hidle : Idle s) : ∃ p, SafeIn p s ∧ RestPhase s p := by
  rcases atRest_of_inv h hidle with hfree | hlow
  · have ⟨_, hclosed⟩ := hfree
    exact ⟨.free, ⟨steady_of_inv h, hfree⟩, .inl ⟨rfl, hclosed⟩⟩
  · have ⟨⟨i, hopen, hi, _⟩, _⟩ := hlow
    exact ⟨.low, ⟨steady_of_inv h, hlow⟩, .inr ⟨rfl, i, hopen, hi⟩⟩

theorem accept_inv {p : Phase} (h : SafeIn p s) {todo : List Micro}
    (hsafe : safeSteps s.params.nSlaves p todo = true) (i : Instr) : Inv (accept i todo s) := by
  unfold accept
  split
  · rename_i off b rest
    obtain ⟨hstore, q, hafter, hrest⟩ := safeSteps_cons_iff.1 hsafe
    obtain rfl : p = q := Option.some.inj hafter
    have hwritten := (writeByte_quiet b (outsideRegistry_of_inBuffers hstore)).safeIn h
    exact inv_of_running (Quiet.safeIn {} hwritten) rfl hrest
  · exact inv_of_running (Quiet.safeIn {} h) rfl hsafe

theorem record_inv (h : Inv s) (k : ErrorKind) (info : Half) : Inv (s.record k info) :=
  inv_of_quiet h (record_quiet k info) rfl

/-- `SRST` closes an open bracket; with none open the chip-select is already released (R141). -/
theorem softReset_inv (h : Inv s) : Inv s.softReset := by
  obtain ⟨p, hin⟩ := exists_safeIn h
  by_cases hopen : s.isOpen = true
  · obtain ⟨hsteady, hfree⟩ := endNow_safeIn hin.steady hopen
    rw [State.softReset, if_pos hopen]
    exact inv_of_atRest { hsteady with byteEnd := nofun } rfl (.inl hfree)
  · have hfree : Phase.free.holds s := by
      refine closed_of_holds hin.holds ?_ ?_
      · rintro rfl
        obtain ⟨⟨i, hb, -⟩, -⟩ := hin.holds
        exact hopen (isOpen_of_bracket_opened hb)
      · rintro rfl
        obtain ⟨i, hb, -⟩ := hin.holds
        exact hopen (isOpen_of_bracket_opened hb)
    rw [State.softReset, if_neg hopen]
    exact inv_of_atRest { hin.steady with byteEnd := nofun } rfl (.inl hfree)

theorem issue_inv (h : Inv s) (i : Instr) : Inv (issue i s) := by
  rw [issue_eq]
  split
  · exact softReset_inv h
  split
  · exact record_inv h _ _
  · rename_i hbusy
    obtain ⟨p, hin, hrest⟩ := exists_restPhase h (idle_of_not_busy s (Bool.eq_false_iff.2 hbusy))
    exact accept_inv hin (stepsOf_safe hrest i) i

theorem issueIllegal_inv (h : Inv s) (op : Byte) : Inv (issueIllegal op s) := by
  unfold issueIllegal
  split
  · exact record_inv h _ _
  · rename_i hbusy
    obtain ⟨p, hin, hrest⟩ := exists_restPhase h (idle_of_not_busy s (Bool.eq_false_iff.2 hbusy))
    obtain ⟨hsteady, hatRest⟩ := raiseError_safe hin hrest.not_high .illegal (zext op) {}
    exact inv_of_atRest hsteady (raiseError_seq _ _ _ s) hatRest

theorem onCmdWrite_inv (h : Inv s) (w : Word) : Inv (onCmdWrite w s) := by
  unfold onCmdWrite
  split
  · exact issue_inv h _
  · exact issueIllegal_inv h _

/-! ## The register port -/

theorem writeWord_quiet (v : Word) {off : Nat} (h : ∀ k < 4, OutsideRegistry (off + k)) :
    Quiet s (s.writeWord off v) :=
  (((writeByte_quiet _ (h 0 (by decide))).trans (writeByte_quiet _ (h 1 (by decide)))).trans
    (writeByte_quiet _ (h 2 (by decide)))).trans (writeByte_quiet _ (h 3 (by decide)))

/-- A stored word leaves the SPI side alone, so only the ids it may store are in question. -/
theorem writeWord_quiet_of_registryOk (v : Word) {off : Nat}
    (h : RegistryOk s → RegistryOk (s.writeWord off v)) : Quiet s (s.writeWord off v) := by
  have hmemory := writeWord_wf s off v
  have hframe := writeWord_eq s off v
  generalize (s.writeWord off v).mem = mem at hframe
  rw [hframe] at h hmemory ⊢
  exact { memory := hmemory, registry := fun _ => h }

/-- A byte of a word stored in an entry reads as the word's byte or, where the entry does not exist, as 0. -/
theorem readByte_entry_ne_255 {off k : Nat} {v : Word} (hk : k < 4) (hv : byteOf v k ≠ 255) :
    (s.writeWord off v).readByte (off + k) ≠ 255 := by
  rw [readByte_writeWord s off v hk]
  split
  · exact hv
  · decide

/-- A write of an entry never makes 255 an id (R95). -/
theorem writeRegistry_quiet {off : Nat} (v : Word) (halign : off % 4 = 0) :
    Quiet s (s.writeRegistry off v) := by
  unfold State.writeRegistry
  split
  · exact record_quiet _ _
  · rename_i hids
    refine writeWord_quiet_of_registryOk v fun h i hi => ?_
    rw [writeWord_params] at hi
    rw [State.slaveIdOf, State.muscleIdOf, registryBase]
    rw [registryBase] at hids
    by_cases hentry : off = 0x500 + 4 * i
    · subst hentry
      have hindex : (0x500 + 4 * i - 0x500) / 4 = i := by omega
      rw [hindex, not_and, not_or] at hids
      obtain ⟨hslave, hmuscle⟩ := hids hi
      exact ⟨readByte_entry_ne_255 (k := 0) (by decide) hslave,
        readByte_entry_ne_255 (k := 1) (by decide) hmuscle⟩
    · rw [readByte_writeWord_other _ _ _ _ (by omega), readByte_writeWord_other _ _ _ _ (by omega)]
      exact h i hi

/-- A write to an idle block goes to a register, to an entry of the registry or to a window outside it (R42,
R95). -/
theorem writeIdle_quiet {off : Nat} (v : Word) (hmapped : Mapped off) (halign : off % 4 = 0)
    (hwritable : ¬ ReadOnly off) (hstatus : off ≠ 0x004) (herr : off ≠ 0x008) (hcmd : off ≠ 0x00C) :
    Quiet s (s.writeIdle off v) := by
  unfold State.writeIdle
  split
  · exact {}
  split
  · exact {}
  split
  · exact {}
  split
  · exact {}
  split
  · exact writeRegistry_quiet v halign
  · rename_i hreg
    rw [inRange, Bool.and_eq_true, decide_eq_true_eq, decide_eq_true_eq, registryBase] at hreg
    refine writeWord_quiet v fun k hk => .inl ?_
    unfold Mapped at hmapped
    unfold ReadOnly at hwritable
    omega

theorem clearErrors_seq (w : Word) : (s.clearErrors w).seq = s.seq := by
  unfold State.clearErrors
  dsimp only
  split <;> rfl

theorem portWrite_inv (h : Inv s) (off : BitVec 12) (width : Nat) (v : Word) :
    Inv (s.portWrite off width v) := by
  unfold State.portWrite
  split
  · rename_i hgood
    rw [Bool.and_eq_true, Bool.not_eq_true', goodAccess_iff, Bool.eq_false_iff, Ne, readOnlyWord_iff] at hgood
    obtain ⟨⟨-, halign, hmapped⟩, hwritable⟩ := hgood
    split
    · exact onCmdWrite_inv h v
    rename_i hcmd
    split
    · split
      · exact inv_of_quiet h {} rfl
      · exact h
    rename_i hstatus
    split
    · exact inv_of_quiet h (clearErrors_quiet v) (clearErrors_seq v)
    rename_i herr
    split
    · exact record_inv h _ _
    · have hne {r : BitVec 12} (hr : off ≠ r) : off.toNat ≠ r.toNat :=
        fun he => hr (BitVec.eq_of_toNat_eq he)
      exact inv_of_quiet h
        (writeIdle_quiet v hmapped halign hwritable (hne hstatus) (hne herr) (hne hcmd))
        (writeIdle_seq off.toNat v)
  · exact record_inv h _ _

theorem portRead_inv (h : Inv s) (off : BitVec 12) (width : Nat) : Inv (s.portRead off width) := by
  unfold State.portRead
  split
  · split <;> exact inv_of_quiet h {} rfl
  · exact inv_of_quiet (record_inv h .addr _) {} rfl

/-! ## Timeouts and power-on reset -/

/-- An operation that waits for the host is not between the two edges of `End()` (R57, R101). -/
theorem not_high_of_takesByte {n : Nat} {p q : Phase} {m : Micro} (hm : m.takesByte = true)
    (hafter : p.after n m = some q) : p ≠ .high := by
  cases m with
  | searchByte | takeCount | takeInto | takeTrailer => exact (Option.ite_none_left_eq_some.1 hafter).1
  | _ => cases hm

theorem timeOut_inv (h : Inv s) : Inv s.timeOut := by
  cases hseq : s.seq with
  | idle => rwa [State.timeOut, hseq]
  | running r =>
    rw [timeOut_of_running hseq]
    split
    · rename_i htimeout
      obtain ⟨r', m, rest, hr', htodo, hm, -⟩ := waiting_cases (Bool.and_eq_true_iff.1 htimeout).1
      rw [hseq, Seq.running.injEq] at hr'
      subst hr'
      obtain ⟨p, hin, hsafe⟩ := phase_of_inv h hseq
      rw [htodo, safeSteps_cons_iff] at hsafe
      obtain ⟨-, q, hafter, -⟩ := hsafe
      obtain ⟨hsteady, hatRest⟩ := raiseError_safe hin (not_high_of_takesByte hm hafter) .timeout 0 r.loc
      exact inv_of_atRest hsteady (raiseError_seq _ _ _ s) hatRest
    · exact h

/-- A byte of an entry in the reset registry (R31). -/
theorem readByte_entry_of_mem_nil (hmem : s.mem = []) (hwf : s.params.wf = true) {i k : Nat}
    (hi : i < s.params.nSlaves) (hk : k < 3) :
    s.readByte (0x500 + 4 * i + k) = registryResetByte s.params i k := by
  have hexists := (byteExists_entry hwf hi (k := k) (by omega)).2 (by omega)
  have hentry : inRange registryBase (4 * s.params.nSlaves) (0x500 + 4 * i + k) = true := by
    rw [inRange, Bool.and_eq_true, decide_eq_true_eq, decide_eq_true_eq, registryBase]
    omega
  have hrow : (0x500 + 4 * i + k - registryBase) / 4 = i := by rw [registryBase]; omega
  have hbyte : (0x500 + 4 * i + k - registryBase) % 4 = k := by rw [registryBase]; omega
  rw [State.readByte, if_pos hexists, hmem, Memory.lookup, resetByte, if_pos hentry, hrow, hbyte]

/-- No default id is 255 (R95). -/
theorem registryOk_of_mem_nil (hmem : s.mem = []) (hwf : s.params.wf = true) : RegistryOk s := by
  intro i hi
  have hbounds := hwf
  simp only [Params.wf, Bool.and_eq_true, decide_eq_true_eq] at hbounds
  have hslave : s.slaveIdOf i = BitVec.ofNat 8 (i + 1) :=
    readByte_entry_of_mem_nil hmem hwf hi (k := 0) (by decide)
  have hmuscle : s.muscleIdOf i = BitVec.ofNat 8 (s.params.muscleBase + i) :=
    readByte_entry_of_mem_nil hmem hwf hi (k := 1) (by decide)
  rw [hslave, hmuscle]
  constructor <;> bv_omega

theorem errorsOk_of_cleared (hkind : s.errKind = 0) (hcause : s.lastCause = 0) (hinfo : s.errInfo = 0) :
    ErrorsOk s :=
  ⟨fun _ => ⟨hcause, hinfo⟩, fun hset => absurd hkind hset⟩

/-- Power-on reset releases an asserted chip-select, so the bus history goes on as one without a bracket
(R159, R160). -/
theorem powerOn_inv (h : Inv s) : Inv s.powerOn where
  params := h.params
  memory := rfl
  peers := h.peers
  errors := errorsOk_of_cleared rfl rfl rfl
  registry := registryOk_of_mem_nil rfl h.params
  pins := .inl ⟨rfl, rfl⟩
  bus := by
    show busOpen (if s.isOpen then s.bus ++ [.released] else s.bus) = some false
    split
    · rename_i hopen
      rw [busOpen_append, h.bus, hopen]
      rfl
    · rename_i hclosed
      rw [h.bus, Bool.eq_false_iff.2 hclosed]
  byteEnd := nofun
  handled := h.handled

/-! ## Every step of the machine -/

theorem perform_inv (h : Inv s) (m : Move) : Inv (perform m s) := by
  cases m with
  | issue w => exact onCmdWrite_inv h w
  | write off width v => exact portWrite_inv h off width v
  | read off width => exact portRead_inv h off width
  | wait => exact drain_inv h
  | tick => exact tick_inv s h
  | timeout => exact timeOut_inv h
  | powerOn => exact powerOn_inv h
  | elapse t => exact inv_of_quiet h { now := Nat.le_add_right _ _ } rfl
  | hostSend | hostTake => exact inv_of_quiet h {} rfl

theorem exec_inv (h : Inv s) {i : Instr} (ht : exec i s = .next t) : Inv t := by
  rw [exec_eq] at ht
  injection ht with ht
  subst ht
  split
  · exact softReset_inv h
  split
  · exact record_inv h _ _
  · rename_i hbusy
    obtain ⟨p, hin, hrest⟩ := exists_restPhase h (idle_of_not_busy s (Bool.eq_false_iff.2 hbusy))
    exact drain_inv (accept_inv hin (stepsOf_safe hrest i) i)

end

/-- Settles O11: the sequencer's step, an operation line and every other move keep the invariant. -/
theorem everyStepKeepsTheInvariant : Obligations.EveryStepKeepsTheInvariant := by
  intro s t h ht
  have hdrop : Inv s.dropMove := inv_of_quiet h {} rfl
  unfold step at ht
  split at ht
  · injection ht with ht
    exact ht ▸ tick_inv s h
  · split at ht
    · exact exec_inv hdrop ht
    · injection ht with ht
      exact ht ▸ issueIllegal_inv hdrop _
  · injection ht with ht
    exact ht ▸ perform_inv hdrop _

end Sys2Proof.Proofs
end

section
/-! SUPPORT. Errors recorded, refused and cleared (60_exceptions.md R144, R145, R148, R151), and the state of
power-on reset (70_reset_and_hazards.md R159, R160). -/

namespace Sys2Proof.Proofs

open Sys2Proof.Machine Sys2Proof.Safety

/-! ## Errors recorded -/

theorem mask_getLsbD (k : ErrorKind) (j : Nat) : k.mask.getLsbD j = decide (j + 1 = k.code) := by
  by_cases hj : j < 12
  · cases k <;> interval_cases j <;> rfl
  · rw [BitVec.getLsbD_of_ge _ _ (Nat.le_of_not_lt hj), eq_comm, decide_eq_false_iff_not]
    cases k <;> simp only [ErrorKind.code] <;> omega

/-- Bit `n` of `ERR` is a bit of `KIND`, a reserved 0, or a bit of `LAST_CAUSE` (R18). -/
theorem errWord_getLsbD (s : State) (n : Nat) : s.errWord.getLsbD n =
    if n < 24 then decide (1 ≤ n) && s.errKind.getLsbD (n - 1) else s.lastCause.getLsbD (n - 24) := by
  have hzero (w : Nat) : (0#w).getLsbD (n - 1 - 12) = false := BitVec.getLsbD_zero
  simp only [State.errWord, BitVec.getLsbD_append, hzero]
  by_cases h0 : n < 1
  · simp [h0, show n < 24 by omega]
  · by_cases hkind : n - 1 < 12
    · simp [h0, hkind, show n < 24 by omega, show 1 ≤ n by omega]
    · rw [if_neg h0, if_neg hkind, BitVec.getLsbD_of_ge s.errKind _ (Nat.le_of_not_lt hkind), Bool.and_false]
      by_cases hreserved : n < 24
      · rw [if_pos hreserved, if_pos (by omega)]
      · rw [if_neg hreserved, if_neg (by omega), show n - 1 - 12 - 11 = n - 24 by omega]

/-- `LAST_CAUSE` holds every bit of a code. -/
theorem lastCause_getLsbD (k : ErrorKind) (j : Nat) :
    (BitVec.ofNat 8 k.code).getLsbD j = k.code.testBit j := by
  have hcode : k.code < 2 ^ 8 := by cases k <;> decide
  rw [BitVec.getLsbD_ofNat, Bool.and_eq_right_iff_imp, decide_eq_true_eq]
  intro hbit
  by_contra hj
  rw [Nat.testBit_lt_two_pow (hcode.trans_le (Nat.pow_le_pow_right (by decide) (Nat.le_of_not_lt hj)))] at hbit
  cases hbit

/-- Settles O57: the bits of the `ERR` word before and after, by the field they are in. -/
theorem recordingAnError : Obligations.RecordingAnError := by
  refine ⟨by decide, fun s k info => ⟨rfl, fun n => ?_⟩⟩
  have hcode : 1 ≤ k.code ∧ k.code ≤ 12 := by cases k <;> decide
  rw [errWord_getLsbD, errWord_getLsbD, State.record_errKind, State.record_lastCause, BitVec.getLsbD_or,
    mask_getLsbD]
  by_cases hbit : n = k.code
  · subst hbit
    rw [if_pos (by omega), if_pos rfl, Nat.sub_add_cancel hcode.1, decide_eq_true hcode.1,
      decide_eq_true rfl, Bool.or_true, Bool.and_true]
  rw [if_neg hbit]
  split
  · by_cases hlow : 1 ≤ n
    · rw [Nat.sub_add_cancel hlow, decide_eq_false hbit, Bool.or_false]
    · rw [decide_eq_false hlow, Bool.false_and, Bool.false_and]
  · exact lastCause_getLsbD k _

/-! ## Errors and `DONE` cleared -/

/-- Settles O56: the bits written are bits 12:1 and bit 1 of the word. -/
theorem clearingWrites : Obligations.ClearingWrites := by
  refine fun s v => ⟨?_, ?_⟩
  · have hbits : v.extractLsb' 1 12 = BitVec.ofNat 12 (v.toNat / 2) := by
      apply BitVec.eq_of_toNat_eq
      rw [BitVec.extractLsb'_toNat, Nat.shiftRight_eq_div_pow, BitVec.toNat_ofNat]
    show s.clearErrors v = _
    rw [State.clearErrors, hbits]
    split
    · rename_i hkept
      rw [hkept]
    · rfl
  · have hbit : v.getLsbD 1 = decide (v.toNat / 2 % 2 = 1) := Nat.testBit_eq_decide_div_mod_eq
    show (if v.getLsbD 1 then { s with done := false } else s) = _
    rw [hbit]
    simp only [decide_eq_true_eq]
    split <;> rfl

/-! ## Operations refused -/

/-- Settles O7: no arm of the step answers a fault or a refusal. -/
theorem everyStepAnswers : Obligations.EveryStepAnswers := by
  intro s
  unfold step
  split
  · exact ⟨_, rfl⟩
  · split
    · exact ⟨_, exec_eq _ _⟩
    · exact ⟨_, rfl⟩
  · exact ⟨_, rfl⟩

theorem exec_busy {i : Instr} {s : State} (hi : i ≠ .srst) (h : s.busy = true) :
    exec i s = .next (s.record .busy 0x00C) := by
  rw [exec_eq, if_neg hi, if_pos h]

theorem ne_srst_of_decode {w : Word} {i : Instr} (h : decode w = .ok i) (hw : w.toNat / 2 ^ 24 ≠ 1) :
    i ≠ .srst := by
  rintro rfl
  obtain ⟨-, hop⟩ := row_of_decode h
  rw [← fieldOp_toNat, hop] at hw
  exact hw rfl

theorem onCmdWrite_busy {s : State} {w : Word} (h : s.busy = true) (hw : w.toNat / 2 ^ 24 ≠ 1) :
    onCmdWrite w s = s.record .busy 0x00C := by
  unfold onCmdWrite
  split
  · rename_i i hi
    rw [issue_eq, if_neg (ne_srst_of_decode hi hw), if_pos h]
  · rw [issueIllegal, if_pos h]

theorem step_issue_busy {s : State} {w : Word} {rest : List Move} (h : s.busy = true)
    (hw : w.toNat / 2 ^ 24 ≠ 1) (hmoves : s.moves = .issue w :: rest) :
    step s = .next (({ s with moves := rest } : State).record .busy 0x00C) := by
  have hbusy : ({ s with moves := rest } : State).busy = true := h
  rcases decode_cases w with ⟨hillegal, -⟩ | ⟨-, i, hi, -⟩
  · rw [step_issue_illegal hmoves hillegal, issueIllegal, if_pos hbusy]
  · rw [step_issue hmoves hi, exec_busy (ne_srst_of_decode hi hw) hbusy]

/-- Settles O10: a word that is not `SRST`'s is refused, whether it decodes or not. -/
theorem busyRefusesOperations : Obligations.BusyRefusesOperations :=
  ⟨fun _ _ hi h => exec_busy hi h,
    fun _ _ h hw => ⟨onCmdWrite_busy h hw, fun _ => step_issue_busy h hw⟩⟩

/-! ## Power-on reset -/

theorem reset_params_wf : State.reset.params.wf = true := by
  simp [State.reset, Config.params, Params.wf]

/-- Settles O12: the parameters are in range whatever the `OPEN` ones are, and every slave is at rest. -/
theorem resetHasTheInvariant : Obligations.ResetHasTheInvariant where
  params := reset_params_wf
  memory := rfl
  peers := by simp [State.reset]
  errors := errorsOk_of_cleared rfl rfl rfl
  registry := registryOk_of_mem_nil rfl reset_params_wf
  pins := .inl ⟨rfl, rfl⟩
  bus := rfl
  byteEnd := nofun
  handled := by
    intro _ p hp
    obtain ⟨i, -, rfl⟩ := List.mem_map.1 hp
    exact Nat.zero_le _

theorem readByte_outside_of_mem_nil {s : State} (hmem : s.mem = []) {off : Nat}
    (h : off < 0x500 ∨ 0x500 + 4 * s.params.nSlaves ≤ off) : s.readByte off = 0 := by
  have hout : inRange registryBase (4 * s.params.nSlaves) off = false := by
    rw [inRange, Bool.and_eq_false_iff, decide_eq_false_iff_not, decide_eq_false_iff_not, registryBase]
    omega
  rw [State.readByte, hmem, Memory.lookup, resetByte, hout, if_neg Bool.false_ne_true, ite_self]

/-- The default entry of a slave index (R31, R160). -/
theorem reset_entry {i : Nat} (hi : i < 24) :
    State.reset.readByte (0x500 + 4 * i) = BitVec.ofNat 8 (i + 1) ∧
      State.reset.readByte (0x501 + 4 * i) = BitVec.ofNat 8 (39 + i) ∧
      State.reset.readByte (0x502 + 4 * i) = BitVec.ofNat 8 (i / 2) := by
  have hbyte {k : Nat} (hk : k < 3) :
      State.reset.readByte (0x500 + 4 * i + k) = registryResetByte State.reset.params i k :=
    readByte_entry_of_mem_nil rfl reset_params_wf hi hk
  have h1 : 0x501 + 4 * i = 0x500 + 4 * i + 1 := by omega
  have h2 : 0x502 + 4 * i = 0x500 + 4 * i + 2 := by omega
  rw [h1, h2]
  exact ⟨hbyte (k := 0) (by decide), hbyte (k := 1) (by decide), hbyte (k := 2) (by decide)⟩

/-- Each slave is at launch in the state that R124 gives. -/
theorem reset_peer {i : Nat} (hi : i < 24) :
    State.reset.peers[i]? = some (Peer.atLaunch State.reset.params.initLen i) := by
  have hi' : i < Config.params.nSlaves := hi
  rw [State.reset, List.getElem?_map, List.getElem?_range hi', Option.map_some]

/-- Settles O59: the registers, the default registry, the empty windows, the pins and the hidden state, and the
peers. -/
theorem resetValues : Obligations.ResetValues :=
  ⟨rfl, rfl, rfl, rfl, rfl, rfl, rfl, rfl, rfl, rfl, fun _ hi => reset_entry hi,
    fun _ hoff => readByte_outside_of_mem_nil rfl hoff, rfl, rfl, rfl, rfl, rfl, rfl, rfl, rfl, rfl, rfl,
    resetHasTheInvariant.peers, fun _ hi => ⟨_, reset_peer hi, rfl, rfl, rfl, rfl, rfl, rfl, rfl, rfl⟩⟩

/-- Settles O60: a bracket that is open is released in the history. -/
theorem powerOnReset : Obligations.PowerOnReset := by
  intro s
  show s.powerOn = _
  unfold State.powerOn
  simp only [isOpen_eq, decide_eq_true_eq, ite_not]

end Sys2Proof.Proofs
end
